-- ==== Sys2Proof/Word.lean ====
section
/-! DEFINITION. The bit vectors of the block (00_scope.md R7) and the two closed lists of names that the
encoding and the machine share: the validity classes and the refusal codes. -/

namespace Sys2Proof

/-- A `u8` (R7). -/
abbrev Byte := BitVec 8

/-- A `u16` (R7): a Register Value. -/
abbrev HalfWord := BitVec 16

/-- A `u32` (R7): a command word, a host register. -/
abbrev Word := BitVec 32

/-- The validity classes a READREG can name (30_encoding.md R74, 42_register_access.md R160). -/
inductive VClass where
  | status
  | soc
  | voltage
  | current
  | temp
  | tte
  | ttf
  deriving DecidableEq, Repr

/-- The refusal codes of 60_exceptions.md R183. All are safe in this sense: the spec says of each that the access
writes no state and moves no line; what real hardware does on such an access it does not say (log 6). -/
inductive RefuseReason where
  /-- RF_ACCESS: an access that is not a 32-bit aligned access to a mapped offset, or a write to STATUS or RXDATA
  (20_memory.md R51, R52, R54). Raised by the host window. -/
  | access
  /-- RF_BUSY: CMD written while BUSY = 1 (20_memory.md R56). Raised by every command. -/
  | busy
  /-- RF_RESERVED_OP: OP = 0x0 or 0x7 to 0xF (30_encoding.md R72, R73). Raised by the decoder. -/
  | reservedOp
  /-- RF_RESERVED_FIELD: a must-be-zero field of the command word is not zero (R72, R73). Raised by the decoder. -/
  | reservedField
  /-- RF_RESERVED_VCLASS: READREG with VC = 7 to 15 (R72, R73). Raised by the decoder, and by the meaning of an
  ill-formed READREG. -/
  | reservedVClass
  /-- RF_SESSION: START or READREG with SESS = 1; RSTART, STOP, SENDBYTE or READWORD with SESS = 0
  (40_bus_conditions.md R101, R104, R106; 41_byte_transfer.md R126, R139; 42_register_access.md R159). -/
  | session
  /-- RF_LINE_STATE: READWORD with LINE[DATA] = DrivenLow (41_byte_transfer.md R139). -/
  | lineState
  deriving DecidableEq, Repr

end Sys2Proof
end

