-- ==== Sys2Proof/Config.lean ====
section
/-! DEFINITION. What an instantiation of the block fixes (00_scope.md R5) and the values the spec leaves open.
A constant without a body is one about which nothing can be proved but what holds of every value (log 4, 5, 10). The
parameters with a default are records, and a definition that reads one takes it as an argument or from State (log 10). -/

namespace Sys2Proof.Config

/-! ### The open parameters of R5 -/

/-- `P_T`, the timing quantum in microseconds: OPEN (R5, R6, D6). Read only by the duration of a trace. -/
opaque pT : Nat

/-- `P_QUIET` less one: OPEN (R5, R102, D7). -/
opaque pQuietLessOne : Nat

/-- `P_QUIET`, the length of the quiet interval in quanta: OPEN, an integer of at least 1 (R5, R102, D7). -/
def pQuiet : Nat := pQuietLessOne + 1

/-- `P_CLK`, the pad of the clock line, by number: OPEN (R5, D15). -/
opaque pClk : Nat

/-- Which of the pads other than `P_CLK` is the data pad. -/
opaque pDataChoice : Nat

/-- `P_DATA`, the pad of the data line: OPEN, distinct from `P_CLK` (R5, D15). Every number but `P_CLK` is the value
for some choice. -/
def pData : Nat := if pDataChoice < pClk then pDataChoice else pDataChoice + 1

/-- `P_BASE`, where the host register window of 20_memory.md R50 sits: OPEN (R5, D2). -/
opaque pBase : Nat

/-! ### The parameters R5 gives defaults for (log 10) -/

/-- The bounds the validity classes VOLTAGE and TEMP compare with (R163, R165; D21, D22). -/
structure Bounds where
  /-- `P_VOLT_LO`: exclusive lower bound of a valid voltage reading, raw mV. -/
  voltLo : Nat
  /-- `P_VOLT_HI`: exclusive upper bound of a valid voltage reading, raw mV. -/
  voltHi : Nat
  /-- `P_TEMP_MIN`: smallest raw temperature reading (0.1 K) that is invalid. -/
  tempMin : Nat
  deriving DecidableEq, Repr

/-- The defaults of R5. -/
def defaultBounds : Bounds := { voltLo := 6000, voltHi := 22000, tempMin := 3132 }

/-- The device address bytes that `batread` puts into its command (R5, 30_encoding.md R78; D5). -/
structure DeviceAddresses where
  /-- `P_WADDR`: the write-address byte. -/
  writeAddr : Byte
  /-- `P_RADDR`: the read-address byte. -/
  readAddr : Byte
  deriving DecidableEq, Repr

/-- The defaults of R5. -/
def defaultAddresses : DeviceAddresses := { writeAddr := 0x16#8, readAddr := 0x17#8 }

/-! ### Free values -/

/-- The bus oracle of 00_scope.md R11 where State lists no answer of the peer: the n-th such sample (log 4). -/
opaque busDraw : Nat → Bool

/-- The unconstrained value of 20_memory.md R55 that the n-th host read of STATUS or RXDATA with BUSY = 1 gives
(log 5). -/
opaque busyReadDraw : Nat → Word

/-! ### The peer's register map, given for hosts (20_memory.md R59); the block does not hold it -/

/-- One row of R59: a register pointer, what it is, and the class meant for it. -/
structure PeerRegister where
  pointer : Byte
  name : String
  unit : String
  vclass : VClass
  deriving DecidableEq, Repr

/-- The table of R59, row by row. -/
def peerRegisters : List PeerRegister :=
  [ { pointer := 0x16#8, name := "status", unit := "bitfield", vclass := .status },
    { pointer := 0x09#8, name := "voltage", unit := "mV", vclass := .voltage },
    { pointer := 0x0A#8, name := "current", unit := "signed mA", vclass := .current },
    { pointer := 0x08#8, name := "temperature", unit := "0.1 K", vclass := .temp },
    { pointer := 0x0D#8, name := "relative state-of-charge", unit := "%", vclass := .soc },
    { pointer := 0x12#8, name := "time-to-empty", unit := "min", vclass := .tte },
    { pointer := 0x13#8, name := "time-to-full", unit := "min", vclass := .ttf } ]

end Sys2Proof.Config
end

