-- ==== Sys2Proof/Syntax.lean ====
section
/-! DEFINITION. The six commands (30_encoding.md R71), one constructor per row of spec/opcode_table.json. -/

namespace Sys2Proof

/-- A command, with the operand fields of its word (R70, R71, R75). -/
inductive Instr where
  /-- START, OP 0x1 (40_bus_conditions.md R100). -/
  | start
  /-- RSTART, OP 0x2 (40_bus_conditions.md R103). -/
  | rstart
  /-- STOP, OP 0x3 (40_bus_conditions.md R105). -/
  | stop
  /-- SENDBYTE, OP 0x4, the byte in B0 (41_byte_transfer.md R120). -/
  | sendbyte (value : Byte)
  /-- READWORD, OP 0x5 (41_byte_transfer.md R130). -/
  | readword
  /-- READREG, OP 0x6: VC, B0, B1, B2 (42_register_access.md R150). -/
  | readreg (vc : BitVec 4) (writeAddr regPointer readAddr : Byte)
  deriving DecidableEq, Repr

end Sys2Proof
end

