-- ==== Sys2Proof/WellFormed.lean ====
section
/-! DEFINITION. Which commands are well formed: a READREG names one of the classes 0 to 6 (30_encoding.md R74). Every
other operand is a `u8` taken verbatim (R75), so its type is its whole check. -/

namespace Sys2Proof

/-- The VC field names a class: 0 to 6, not the reserved 7 to 15 (R73, R74). -/
def vcLegal (vc : BitVec 4) : Bool := vc.toNat ≤ 6

/-- A command that some command word stands for. -/
def Instr.wellFormed : Instr → Bool
  | .start => true
  | .rstart => true
  | .stop => true
  | .sendbyte _ => true
  | .readword => true
  | .readreg vc _ _ _ => vcLegal vc

end Sys2Proof
end

