-- ==== Sys2Proof/Decode.lean ====
section
/-! DEFINITION. The command word: its fields (30_encoding.md R70), the opcode map (R71), the decoder, total on every
32-bit word and refusing by name in the order of R72, and the encoder, written from the same table. -/

namespace Sys2Proof

/-! ### Fields of the command word (R70) -/

/-- OP, bits 3:0. -/
def opField (w : Word) : BitVec 4 := w.extractLsb' 0 4
/-- VC, bits 7:4. -/
def vcField (w : Word) : BitVec 4 := w.extractLsb' 4 4
/-- B0, bits 15:8. -/
def b0Field (w : Word) : Byte := w.extractLsb' 8 8
/-- B1, bits 23:16. -/
def b1Field (w : Word) : Byte := w.extractLsb' 16 8
/-- B2, bits 31:24. -/
def b2Field (w : Word) : Byte := w.extractLsb' 24 8

/-- The word with the five given fields (the diagram of R70, most significant field first). -/
def commandWord (b2 b1 b0 : Byte) (vc op : BitVec 4) : Word := b2 ++ b1 ++ b0 ++ vc ++ op

/-! ### Opcode map (R71) -/

/-- The opcode of a command, as LASTOP uses it too (R71). -/
def Instr.opcode : Instr → BitVec 4
  | .start => 0x1#4
  | .rstart => 0x2#4
  | .stop => 0x3#4
  | .sendbyte _ => 0x4#4
  | .readword => 0x5#4
  | .readreg _ _ _ _ => 0x6#4

/-- Bits 31:4 are all 0: the check of the commands without operands (R72). -/
def operandFieldsZero (w : Word) : Bool := w.extractLsb' 4 28 == 0#28

/-- `Decode(w)` of R72: the checks run in the order written there. -/
def decode (w : Word) : Except RefuseReason Instr :=
  match (opField w).toNat with
  | 1 => if operandFieldsZero w then .ok .start else .error .reservedField
  | 2 => if operandFieldsZero w then .ok .rstart else .error .reservedField
  | 3 => if operandFieldsZero w then .ok .stop else .error .reservedField
  | 4 =>
    if vcField w == 0#4 && w.extractLsb' 16 16 == 0#16 then .ok (.sendbyte (b0Field w))
    else .error .reservedField
  | 5 => if operandFieldsZero w then .ok .readword else .error .reservedField
  | 6 =>
    if vcLegal (vcField w) then .ok (.readreg (vcField w) (b0Field w) (b1Field w) (b2Field w))
    else .error .reservedVClass
  | _ => .error .reservedOp

/-- The word of a command (R70, R71, R77): fields a command does not use are 0. -/
def encode : Instr → Word
  | .start => commandWord 0#8 0#8 0#8 0#4 0x1#4
  | .rstart => commandWord 0#8 0#8 0#8 0#4 0x2#4
  | .stop => commandWord 0#8 0#8 0#8 0#4 0x3#4
  | .sendbyte value => commandWord 0#8 0#8 value 0#4 0x4#4
  | .readword => commandWord 0#8 0#8 0#8 0#4 0x5#4
  | .readreg vc wa rp ra => commandWord ra rp wa vc 0x6#4

/-- The word that `nbits` bits with the value `w` stand for, the bits above them 0 (a command is one 32-bit word, R76). -/
def tableWord (nbits w : Nat) : Word := BitVec.ofNat 32 (w % 2 ^ nbits)

/-- What the decoder reads from a command whose bits are `w`, numbered as spec/opcode_table.json numbers them. -/
def decodeTableWord (nbits w : Nat) : Option Instr :=
  match decode (tableWord nbits w) with
  | .ok i => some i
  | .error _ => none

end Sys2Proof
end

