-- ==== Sys2Proof/Machine/State.lean ====
section
/-! DEFINITION. The state of the block (10_state.md), of the world outside it as plain data, and reset
(70_reset_and_hazards.md R200). Bits are Bool: true is 1, and a line level of true is high (00_scope.md R7). -/

namespace Sys2Proof.Machine

/-- The two lines (R9). -/
inductive Line where
  | clk
  | data
  deriving DecidableEq, Repr

/-- The drive state of a line: there is no third value (10_state.md R20). -/
inductive Drive where
  | floating
  | drivenLow
  deriving DecidableEq, Repr

/-- The number of the READREG attempt in progress, `ATT` in 1, 2 (10_state.md R23). -/
inductive AttemptNo where
  | first
  | second
  deriving DecidableEq, Repr

/-- The retry state machine of READREG (42_register_access.md R158). -/
inductive Phase where
  | idle
  | run1
  | check
  | run2
  | done
  deriving DecidableEq, Repr

/-- One event of the bus trace (00_scope.md R14). -/
inductive Event where
  | float (l : Line)
  | driveLow (l : Line)
  | wait (quanta : Nat)
  | sample (l : Line) (level : Bool)
  deriving DecidableEq, Repr

/-- One thing that happens to the block from outside, or the engine's turn (00_scope.md R15; log 7).
Offsets are from `P_BASE`, widths in bytes. -/
inductive Input where
  /-- The host action "cmd" of 95_test_vectors.md section 7: write the word to CMD, then poll STATUS until BUSY = 0. -/
  | cmd (w : Word)
  /-- `MemRead(off, width)`. -/
  | read (off width : Nat)
  /-- `MemWrite(off, width, v)`. -/
  | write (off width : Nat) (v : Word)
  /-- The engine takes a step before the next host action. -/
  | engine
  /-- The reset input (R200, R202). -/
  | reset
  deriving DecidableEq, Repr

/-- Why the machine stops. No behaviour of the block is a fault (93_implementation_defined.md, part 1). -/
inductive Fault where
  /-- Raised by an engine step with BUSY = 1 and CUR empty, a state that no rule leads to (log 13).
  Safe: no run reaches it. -/
  | noCommand
  deriving DecidableEq, Repr

/-- Why a command is given no meaning. -/
inductive Refusal where
  /-- Raised by `exec` for a command without a meaning in this model: none is left. Safe. -/
  | notModelled (mnemonic : String)
  /-- `raise Refuse(reason)` (00_scope.md R8, 60_exceptions.md R183): raised by a command whose precondition fails.
  Unsafe if hardware does something else than nothing there (log 6). -/
  | refuse (reason : RefuseReason)
  deriving DecidableEq, Repr

/-- The state: what the spec gives the block, then the model's own fields for the world outside it. The first field is the
instance's parameters, which no step writes. -/
structure State where
  /-- `P_VOLT_LO`, `P_VOLT_HI`, `P_TEMP_MIN` of this instance of the block (00_scope.md R5; log 10). -/
  bounds : Config.Bounds
  /-- `LINE[CLK]` (R20). -/
  lineClk : Drive
  /-- `LINE[DATA]` (R20). -/
  lineData : Drive
  /-- `CUR` (R22). -/
  cur : Option Instr
  /-- `upc` (R22). -/
  upc : Nat
  /-- `SR` (R23). -/
  sr : HalfWord
  /-- `TXB` (R23). -/
  txb : Byte
  /-- `a`, the acknowledge sample a SENDBYTE holds until its end (41_byte_transfer.md R120; log 9). -/
  ackSample : Bool
  /-- `ATT` (R23). -/
  att : AttemptNo
  /-- `RV` (R23). -/
  rv : HalfWord
  /-- `RF` (R23). -/
  rf : Bool
  /-- The state of the retry state machine (42_register_access.md R158). -/
  phase : Phase
  /-- `SESS` (R24). -/
  sess : Bool
  /-- `ERR` (R25). -/
  err : Bool
  /-- `ACK` (R26). -/
  ack : Bool
  /-- `RXDATA` (R27). -/
  rxdata : HalfWord
  /-- `FAILED` (R28). -/
  failed : Bool
  /-- `VALID` (R29). -/
  valid : Bool
  /-- `ATTEMPTS` (R30). -/
  attempts : BitVec 2
  /-- `LASTOP` (R31). -/
  lastop : BitVec 4
  /-- `BUSY` (R32). -/
  busy : Bool
  /-- The bus trace, oldest event first (00_scope.md R14). -/
  trace : List Event
  /-- Model's own: the peer's answers to the next samples, first first (R11; log 4). -/
  peer : List Bool
  /-- Model's own: how many samples were free values (log 4). -/
  draws : Nat
  /-- Model's own: how many host reads were given a free value (log 5). -/
  busyDraws : Nat
  /-- Model's own: what happens next, first first (log 7). -/
  inputs : List Input
  /-- Model's own: the values host reads returned, oldest first (log 12). -/
  reads : List Word
  /-- The refusal mark of the run: every reason raised, oldest first (60_exceptions.md R183; log 6). -/
  refusals : List RefuseReason
  deriving DecidableEq, Repr

/-- The machine right after reset (R200), with nothing waiting outside it: the instance with the defaults of R5 (log 10). -/
def State.reset : State where
  bounds := Config.defaultBounds
  lineClk := .floating
  lineData := .floating
  cur := none
  upc := 0
  sr := 0x0000#16
  txb := 0x00#8
  ackSample := false
  att := .first
  rv := 0xFFFF#16
  rf := false
  phase := .idle
  sess := false
  err := false
  ack := false
  rxdata := 0xFFFF#16
  failed := false
  valid := false
  attempts := 0#2
  lastop := 0#4
  busy := false
  trace := []
  peer := []
  draws := 0
  busyDraws := 0
  inputs := []
  reads := []
  refusals := []

end Sys2Proof.Machine
end

