-- ==== Sys2Proof/Machine/Operands.lean ====
section
/-! DEFINITION. Operand forms and bit placement: the class a VC field names (30_encoding.md R74), the bits of the byte
being sent (41_byte_transfer.md R120, R121), the bits of the word being received (R131, R132), byte numbering
(20_memory.md R62). -/

namespace Sys2Proof.Machine

/-- The class of a VC field (R74); 7 to 15 name none. -/
def vclassOf (vc : BitVec 4) : Option VClass :=
  match vc.toNat with
  | 0 => some .status
  | 1 => some .soc
  | 2 => some .voltage
  | 3 => some .current
  | 4 => some .temp
  | 5 => some .tte
  | 6 => some .ttf
  | _ => none

/-- The VC field of a class (R74). -/
def vcOfClass : VClass → BitVec 4
  | .status => 0#4
  | .soc => 1#4
  | .voltage => 2#4
  | .current => 3#4
  | .temp => 4#4
  | .tte => 5#4
  | .ttf => 6#4

/-- `ATT` as the two bits that ATTEMPTS takes (10_state.md R30). -/
def AttemptNo.bits : AttemptNo → BitVec 2
  | .first => 1#2
  | .second => 2#2

/-- The drive that puts a bit on DATA: a 1 floats, a 0 is driven low (R121). -/
def driveOfBit (b : Bool) : Drive := if b then .floating else .drivenLow

/-- `SR[i] <- b` (R131). -/
def putBit (v : HalfWord) (i : Nat) (b : Bool) : HalfWord :=
  (v &&& ~~~(1#16 <<< i)) ||| ((BitVec.ofBool b).zeroExtend 16 <<< i)

/-- `concat(hi, lo)` (00_scope.md R7). -/
def concatBytes (hi lo : Byte) : HalfWord := hi ++ lo

/-- Byte `k` of a host register: its bits 8k+7..8k (R62, numbering only: no access sees it). -/
def registerByte (w : Word) (k : Nat) : Byte := w.extractLsb' (8 * k) 8

end Sys2Proof.Machine
end

