-- ==== Sys2Proof/Machine/Flags.lean ====
section
/-! DEFINITION. The flags (10_state.md R37), the validity checks that decide VALID and the retry
(42_register_access.md R160 to R167), and the two host registers assembled from the state (10_state.md R33, R34). -/

namespace Sys2Proof.Machine

/-! ### Session and acknowledge flags -/

/-- `SESS <- 1; ERR <- 0`: the end of a START (40_bus_conditions.md R100). -/
def openSession (s : State) : State := { s with sess := true, err := false }

/-- `SESS <- 0`, ERR kept: the end of a STOP (R105). -/
def closeSession (s : State) : State := { s with sess := false }

/-- The acknowledge decides: a low sample sets ACK, a high one clears ACK and sets ERR (41_byte_transfer.md R123). -/
def ackResult (s : State) : State :=
  { s with ack := !s.ackSample, err := s.err || s.ackSample }

/-! ### Validity classes -/

/-- `Valid(vc, v)` by class, at the bounds of an instance (R5). All comparisons are unsigned but those of CURRENT
(D20). -/
def validIn (b : Config.Bounds) (c : VClass) (v : HalfWord) : Bool :=
  match c with
  | .status => v != 0xFFFF#16                                  -- R161
  | .soc => v.toNat < 150                                      -- R162
  | .voltage => b.voltLo < v.toNat && v.toNat < b.voltHi       -- R163
  | .current => v.toInt < 3000 && v.toInt != -1                -- R164
  | .temp => v.toNat < b.tempMin                               -- R165
  | .tte => v.toNat ≤ 1000                                     -- R166
  | .ttf => 1 ≤ v.toNat && v.toNat ≤ 1000                      -- R167

/-- `Valid(vc, v)` of R160 for the VC field of a command, at the bounds of an instance. A reserved field never reaches it
(log 19). -/
def valid (b : Config.Bounds) (vc : BitVec 4) (v : HalfWord) : Bool :=
  match vclassOf vc with
  | some c => validIn b c v
  | none => false

/-- The retry condition `RF = 1 or Valid(vc, RV) = 0` (R153). -/
def retryWanted (vc : BitVec 4) (s : State) : Bool := s.rf || !valid s.bounds vc s.rv

/-! ### Host registers -/

/-- STATUS (10_state.md R33), most significant field first; bits 31:12 read 0. -/
def statusWord (s : State) : Word :=
  0#20 ++ s.lastop ++ s.attempts ++ BitVec.ofBool s.valid ++ BitVec.ofBool s.failed ++ BitVec.ofBool s.ack
    ++ BitVec.ofBool s.err ++ BitVec.ofBool s.sess ++ BitVec.ofBool s.busy

/-- The RXDATA register (R34); bits 31:16 read 0. -/
def rxdataWord (s : State) : Word := s.rxdata.zeroExtend 32

/-- What STATUS reads while BUSY = 1, given the draw: bit 0 is 1, bits 31:1 unconstrained (20_memory.md R55). -/
def busyStatusWord (draw : Word) : Word := draw ||| 1#32

end Sys2Proof.Machine
end

