-- ==== Sys2Proof/Machine/Ops.lean ====
section
/-! DEFINITION. The named operations: lines and trace, samples, the four micro-operations (00_scope.md R9 to R14),
running a micro-program, issuing and completing a command (20_memory.md R56, R57), refusing (60_exceptions.md R183)
and the reset input (70_reset_and_hazards.md R200, R202). The block takes no exception and has no return from one
(60_exceptions.md R187), so there is no operation for either. -/

namespace Sys2Proof.Machine

/-! ### Lines and trace -/

/-- `LINE[l]` (R20). -/
def State.line (s : State) : Line → Drive
  | .clk => s.lineClk
  | .data => s.lineData

/-- `LINE[l] <- d`. Only `Float` and `DriveLow` use it (R20). -/
def State.setLine (s : State) (l : Line) (d : Drive) : State :=
  match l with
  | .clk => { s with lineClk := d }
  | .data => { s with lineData := d }

/-- Append an event to the bus trace (R14). -/
def State.log (s : State) (e : Event) : State := { s with trace := s.trace ++ [e] }

/-- The level of a line on the wire: 0 if the block drives it low or the peer pulls it low, else 1 (10_state.md R21,
from general knowledge). No rule of the engine reads it (log 15). -/
def wireLevel (d : Drive) (peerPullsLow : Bool) : Bool := d == .floating && !peerPullsLow

/-! ### Micro-operations -/

/-- `Float(l)` (R9). -/
def floatLine (l : Line) (s : State) : State := (s.setLine l .floating).log (.float l)

/-- `DriveLow(l)` (R10). -/
def driveLowLine (l : Line) (s : State) : State := (s.setLine l .drivenLow).log (.driveLow l)

/-- `Wait(k)`: an event in the trace and nothing else (R12). -/
def waitQuanta (k : Nat) (s : State) : State := s.log (.wait k)

/-- The peer's answer: the first one listed, else the free value of that draw (R11; log 4). -/
def answerOf (peer : List Bool) (draws : Nat) : Bool :=
  match peer with
  | b :: _ => b
  | [] => Config.busDraw draws

/-- The counter of free values after `n` more samples: one more for each that the list did not answer (log 4). -/
def drawsAfter (n : Nat) (peer : List Bool) (draws : Nat) : Nat := draws + (n - peer.length)

/-- `n` answers are used up: one draw per Sample (R11). -/
def afterSamples (n : Nat) (s : State) : State :=
  { s with peer := s.peer.drop n, draws := drawsAfter n s.peer s.draws }

/-- What the next sample returns. -/
def nextSample (s : State) : Bool := answerOf s.peer s.draws

/-- `Sample(DATA)`, with `store` saying where the bit goes (R11, R14). -/
def sampleData (store : Bool → State → State) (s : State) : State :=
  store (nextSample s) ((afterSamples 1 s).log (.sample .data (nextSample s)))

/-- The micro-operations as the micro-programs list them. -/
inductive Micro where
  /-- `Float(l)`. -/
  | float (l : Line)
  /-- `DriveLow(l)`. -/
  | driveLow (l : Line)
  /-- `Float(DATA)` if TXB[i] is 1, `DriveLow(DATA)` if it is 0 (41_byte_transfer.md R120). -/
  | driveBit (i : Nat)
  /-- `Wait(k)`. -/
  | wait (quanta : Nat)
  /-- `a <- Sample(DATA)` (R120). -/
  | sampleAck
  /-- `SR[i] <- Sample(DATA)` (R131). -/
  | sampleBit (i : Nat)
  deriving DecidableEq, Repr

/-- What a micro-program writes beside its line actions; these take no step of their own (log 3). -/
inductive Latch where
  /-- `TXB <- v` (R120). -/
  | loadTxb (v : Byte)
  /-- `SESS <- 1; ERR <- 0` (42_register_access.md R151). -/
  | openSession
  /-- The ACK and ERR update of a SENDBYTE (R151). -/
  | ackResult
  /-- `SESS <- 0` (R151). -/
  | closeSession
  /-- `RV <- SR; RF <- ERR`, and the retry state machine leaves RUN1 or RUN2 (R151, R158). -/
  | attemptResult
  deriving DecidableEq, Repr

/-- One micro-operation with the register writes attached to it. -/
structure MicroStep where
  before : List Latch
  op : Micro
  after : List Latch
  deriving DecidableEq, Repr

/-- A micro-operation does its one thing and leaves one event in the trace (R14). -/
def runMicro (m : Micro) (s : State) : State :=
  match m with
  | .float l => floatLine l s
  | .driveLow l => driveLowLine l s
  | .driveBit i => if s.txb.getLsbD i then floatLine .data s else driveLowLine .data s
  | .wait k => waitQuanta k s
  | .sampleAck => sampleData (fun b t => { t with ackSample := b }) s
  | .sampleBit i => sampleData (fun b t => { t with sr := putBit t.sr i b }) s

/-- After RUN1 comes CHECK, after RUN2 comes DONE (42_register_access.md R158). -/
def phaseAfterAttempt (n : AttemptNo) : Phase :=
  match n with
  | .first => .check
  | .second => .done

/-- `RV <- SR; RF <- ERR`, and the retry state machine leaves RUN1 or RUN2 (R151, R158). -/
def attemptResult (s : State) : State := { s with rv := s.sr, rf := s.err, phase := phaseAfterAttempt s.att }

/-- The register writes of a latch. -/
def runLatch (s : State) : Latch → State
  | .loadTxb v => { s with txb := v }
  | .openSession => openSession s
  | .ackResult => ackResult s
  | .closeSession => closeSession s
  | .attemptResult => attemptResult s

/-- One step of the engine within a micro-program: one micro-operation, the writes attached to it, `upc` one on
(10_state.md R22). -/
def microStep (s : State) (m : MicroStep) : State :=
  let t := m.after.foldl runLatch (runMicro m.op (m.before.foldl runLatch s))
  { t with upc := t.upc + 1 }

/-- A micro-program run from its first listed step to its last, in that order (20_memory.md R63). -/
def runSteps (p : List MicroStep) (s : State) : State := p.foldl microStep s

/-! ### Writing micro-programs -/

/-- Micro-operations with no register write attached. -/
def plain (ms : List Micro) : List MicroStep := ms.map fun m => { before := [], op := m, after := [] }

/-- The program with a register write before its first micro-operation. -/
def beginWith (c : Latch) (p : List MicroStep) : List MicroStep :=
  match p with
  | [] => []
  | m :: rest => { m with before := c :: m.before } :: rest

/-- The program with a register write after its last micro-operation. -/
def endWith (c : Latch) (p : List MicroStep) : List MicroStep :=
  match p with
  | [] => []
  | [m] => [{ m with after := m.after ++ [c] }]
  | m :: m' :: rest => m :: endWith c (m' :: rest)

/-- `ClockPulse()` (R13). -/
def clockPulse : List Micro := [.float .clk, .wait 2, .driveLow .clk, .wait 1]

/-- `for i = 7 downto 0`. -/
def bitsDown : List Nat := [7, 6, 5, 4, 3, 2, 1, 0]

/-! ### Issue, completion, refusal -/

/-- `CUR <- c; upc <- 0; BUSY <- 1` (20_memory.md R56). -/
def State.issue (s : State) (i : Instr) : State := { s with cur := some i, upc := 0, busy := true }

/-- `LASTOP <- CUR.op; BUSY <- 0`, the end of every command (R57). -/
def complete (op : BitVec 4) (s : State) : State := { s with lastop := op, busy := false }

/-- The refusal mark: nothing of the block is written (60_exceptions.md R183; log 6). -/
def State.refuse (s : State) (r : RefuseReason) : State := { s with refusals := s.refusals ++ [r] }

/-- The common form of a command's meaning (R56, R57): refused while BUSY = 1, refused where its precondition
fails, else issued, run and completed (log 1). -/
def command (i : Instr) (refusal : Option RefuseReason) (run : State → State) (s : State) :
    Host.Outcome State Fault Refusal :=
  if s.busy then .refused (.refuse .busy)
  else
    match refusal with
    | some r => .refused (.refuse r)
    | none => .next (run (s.issue i))

/-! ### Reset -/

/-- The reset input: R200 at once, at whatever micro-operation the engine had reached (R202). The world outside the
block goes on: its inputs, the peer, what the host has read, and the run's refusal mark (log 16). The parameters are not
changed by reset (R200). -/
def State.applyReset (s : State) : State :=
  { State.reset with
    bounds := s.bounds
    peer := s.peer
    draws := s.draws
    busyDraws := s.busyDraws
    inputs := s.inputs
    reads := s.reads
    refusals := s.refusals }

end Sys2Proof.Machine
end

