-- ==== Sys2Proof/Machine/BusConditions.lean ====
section
/-! DEFINITION. START, RSTART and STOP (40_bus_conditions.md): precondition, micro-program, completion, meaning. -/

namespace Sys2Proof.Machine

/-- The commands that work inside a session: `SESS = 1` or RF_SESSION (R104, R106, 41_byte_transfer.md R126). -/
def needsSession (s : State) : Option RefuseReason := if s.sess then none else some .session

/-- The commands that open a session: `SESS = 0` or RF_SESSION (R101, 42_register_access.md R159). -/
def needsNoSession (s : State) : Option RefuseReason := if s.sess then some .session else none

/-! ### START (R100 to R102) -/

/-- R101. -/
def startRefusal (s : State) : Option RefuseReason := needsNoSession s

/-- R100: the quiet interval, then DATA falls while CLK floats, then CLK. -/
def startBody : List MicroStep :=
  plain [.wait Config.pQuiet, .driveLow .data, .wait 1, .driveLow .clk, .wait 1]

/-- R100: `SESS <- 1; ERR <- 0; LASTOP <- 0x1; BUSY <- 0`. -/
def startDone (s : State) : State := complete 0x1#4 (openSession s)

/-- START. -/
def execStart (s : State) : Host.Outcome State Fault Refusal :=
  command .start (startRefusal s) (fun t => startDone (runSteps startBody t)) s

/-! ### RSTART (R103, R104) -/

/-- R104. -/
def rstartRefusal (s : State) : Option RefuseReason := needsSession s

/-- R103: DATA raised, CLK raised, DATA lowered while CLK is high, CLK lowered. -/
def rstartBody : List MicroStep :=
  plain [.float .data, .wait 1, .float .clk, .wait 1, .driveLow .data, .wait 1, .driveLow .clk, .wait 1]

/-- R103: `LASTOP <- 0x2; BUSY <- 0`. -/
def rstartDone (s : State) : State := complete 0x2#4 s

/-- RSTART. -/
def execRstart (s : State) : Host.Outcome State Fault Refusal :=
  command .rstart (rstartRefusal s) (fun t => rstartDone (runSteps rstartBody t)) s

/-! ### STOP (R105, R106, R109) -/

/-- R106. -/
def stopRefusal (s : State) : Option RefuseReason := needsSession s

/-- R105: DATA made low while CLK is low (R109), CLK floated, then DATA. -/
def stopBody : List MicroStep :=
  plain [.driveLow .data, .wait 1, .float .clk, .wait 1, .float .data, .wait 1]

/-- R105: `SESS <- 0; LASTOP <- 0x3; BUSY <- 0`; ERR is kept. -/
def stopDone (s : State) : State := complete 0x3#4 (closeSession s)

/-- STOP. -/
def execStop (s : State) : Host.Outcome State Fault Refusal :=
  command .stop (stopRefusal s) (fun t => stopDone (runSteps stopBody t)) s

end Sys2Proof.Machine
end

