-- ==== Sys2Proof/Machine/ByteTransfer.lean ====
section
/-! DEFINITION. SENDBYTE and READWORD (41_byte_transfer.md): precondition, micro-program, completion, meaning. -/

namespace Sys2Proof.Machine

/-! ### SENDBYTE (R120 to R126) -/

/-- R126. -/
def sendbyteRefusal (s : State) : Option RefuseReason := needsSession s

/-- One data bit: set while CLK is low, then clocked (R120, R121). -/
def sendBit (i : Nat) : List Micro := [.driveBit i, .wait 1] ++ clockPulse

/-- The release of DATA and the ninth pulse with the one sample (R120, R122). -/
def ackSlot : List Micro :=
  [.float .data, .wait 1, .float .clk, .wait 1, .sampleAck, .wait 1, .driveLow .clk, .wait 1]

/-- R120: `TXB <- value`, eight bits from bit 7 down, the acknowledge. -/
def sendbyteBody (value : Byte) : List MicroStep :=
  beginWith (.loadTxb value) (plain (bitsDown.flatMap sendBit ++ ackSlot))

/-- R120: the ACK and ERR update, `LASTOP <- 0x4; BUSY <- 0`. -/
def sendbyteDone (s : State) : State := complete 0x4#4 (ackResult s)

/-- SENDBYTE. -/
def execSendbyte (value : Byte) (s : State) : Host.Outcome State Fault Refusal :=
  command (.sendbyte value) (sendbyteRefusal s) (fun t => sendbyteDone (runSteps (sendbyteBody value) t)) s

/-! ### READWORD (R130 to R139) -/

/-- R139: `SESS = 1`, else RF_SESSION; DATA floating, else RF_LINE_STATE; in that order (60_exceptions.md R185). -/
def readwordRefusal (s : State) : Option RefuseReason :=
  match needsSession s with
  | some r => some r
  | none => if s.lineData == .drivenLow then some .lineState else none

/-- `ReadByte(base)` (R131): each bit sampled while CLK is low, then clocked. -/
def readByte (base : Nat) : List Micro := bitsDown.flatMap fun i => .sampleBit (base + i) :: clockPulse

/-- R130: low byte, acknowledge driven, release (R134), high byte, not-acknowledge by floating. -/
def readwordBody : List MicroStep :=
  plain (readByte 0 ++ [.driveLow .data, .wait 1] ++ clockPulse ++ [.float .data, .wait 1]
    ++ readByte 8 ++ [.float .data, .wait 1] ++ clockPulse)

/-- R130: `RXDATA <- SR; LASTOP <- 0x5; BUSY <- 0`. -/
def readwordDone (s : State) : State := complete 0x5#4 { s with rxdata := s.sr }

/-- READWORD. -/
def execReadword (s : State) : Host.Outcome State Fault Refusal :=
  command .readword (readwordRefusal s) (fun t => readwordDone (runSteps readwordBody t)) s

end Sys2Proof.Machine
end

