-- ==== Sys2Proof/Machine/RegisterAccess.lean ====
section
/-! DEFINITION. READREG (42_register_access.md): one attempt, the retry state machine, completion, meaning. -/

namespace Sys2Proof.Machine

/-- A reserved class is refused before the session is looked at (60_exceptions.md R185; the decoder lets none through);
then R159. -/
def readregRefusal (vc : BitVec 4) (s : State) : Option RefuseReason :=
  if vcLegal vc then needsNoSession s else some .reservedVClass

/-- One attempt (R151): the bodies of the seven commands, each with its own state writes but those of RXDATA, LASTOP
and BUSY, then `RV <- SR; RF <- ERR`. A nack does not cut it short (R156). -/
def attemptBody (wa rp ra : Byte) : List MicroStep :=
  endWith .openSession startBody
    ++ endWith .ackResult (sendbyteBody wa)
    ++ endWith .ackResult (sendbyteBody rp)
    ++ rstartBody
    ++ endWith .ackResult (sendbyteBody ra)
    ++ readwordBody
    ++ endWith .attemptResult (endWith .closeSession stopBody)

/-- RUN1 with `ATT = 1` on an accepted READREG (R150, R158). -/
def beginReadreg (s : State) : State := { s with att := .first, phase := .run1 }

/-- CHECK (R153, R158): a first attempt that failed or whose value is not valid is followed by RUN2 with `ATT <- 2`,
any other by DONE. -/
def checkRetry (vc : BitVec 4) (s : State) : State :=
  if retryWanted vc s then { s with att := .second, phase := .run2 } else { s with phase := .done }

/-- DONE (R150, R155): `RXDATA <- RV; FAILED <- RF; VALID <- Valid(vc, RV); ATTEMPTS <- ATT`, then the end of every
command; the retry state machine is IDLE again (R158). -/
def readregDone (vc : BitVec 4) (s : State) : State :=
  complete 0x6#4
    { s with
      rxdata := s.rv
      failed := s.rf
      valid := valid s.bounds vc s.rv
      attempts := s.att.bits
      phase := .idle }

/-- The loop of R150: an attempt, the check, and at most one more attempt (R154, R157). -/
def readregRun (vc : BitVec 4) (wa rp ra : Byte) (s : State) : State :=
  let t := checkRetry vc (runSteps (attemptBody wa rp ra) (beginReadreg s))
  if t.phase = .run2 then runSteps (attemptBody wa rp ra) t else t

/-- READREG. -/
def execReadreg (vc : BitVec 4) (wa rp ra : Byte) (s : State) : Host.Outcome State Fault Refusal :=
  command (.readreg vc wa rp ra) (readregRefusal vc s) (fun t => readregDone vc (readregRun vc wa rp ra t)) s

end Sys2Proof.Machine
end

