-- ==== Sys2Proof/Machine/Dispatch.lean ====
section
/-! DEFINITION. The meaning of each command: one arm per constructor of Instr. -/

namespace Sys2Proof.Machine

def exec (i : Instr) (s : State) : Host.Outcome State Fault Refusal :=
  match i with
  | .start => Sys2Proof.Machine.execStart s
  | .rstart => Sys2Proof.Machine.execRstart s
  | .stop => Sys2Proof.Machine.execStop s
  | .sendbyte value => Sys2Proof.Machine.execSendbyte value s
  | .readword => Sys2Proof.Machine.execReadword s
  | .readreg vc wa rp ra => Sys2Proof.Machine.execReadreg vc wa rp ra s

end Sys2Proof.Machine
end

