-- ==== Sys2Proof/Machine/Engine.lean ====
section
/-! DEFINITION. The engine agent (00_scope.md R14, R15): the precondition, micro-program and completion of the command in
`CUR`, and one step of it. The same programs and completions make up the meanings that exec calls (log 1, 2). -/

namespace Sys2Proof.Machine

/-- `CheckPrecondition(c)` (20_memory.md R56). -/
def refusalOf (i : Instr) (s : State) : Option RefuseReason :=
  match i with
  | .start => startRefusal s
  | .rstart => rstartRefusal s
  | .stop => stopRefusal s
  | .sendbyte _ => sendbyteRefusal s
  | .readword => readwordRefusal s
  | .readreg vc _ _ _ => readregRefusal vc s

/-- The micro-program `upc` is an index into (10_state.md R22); READREG's lists both attempts (log 14). -/
def program (i : Instr) : List MicroStep :=
  match i with
  | .start => startBody
  | .rstart => rstartBody
  | .stop => stopBody
  | .sendbyte value => sendbyteBody value
  | .readword => readwordBody
  | .readreg _ wa rp ra => attemptBody wa rp ra ++ attemptBody wa rp ra

/-- The state in which the engine finds an accepted command (20_memory.md R56, 42_register_access.md R158). -/
def accept (i : Instr) (s : State) : State :=
  match i with
  | .start => s.issue i
  | .rstart => s.issue i
  | .stop => s.issue i
  | .sendbyte _ => s.issue i
  | .readword => s.issue i
  | .readreg _ _ _ _ => beginReadreg (s.issue i)

/-- The completion step (20_memory.md R57). -/
def finish (i : Instr) (s : State) : State :=
  match i with
  | .start => startDone s
  | .rstart => rstartDone s
  | .stop => stopDone s
  | .sendbyte _ => sendbyteDone s
  | .readword => readwordDone s
  | .readreg vc _ _ _ => readregDone vc s

/-- The engine's next micro-operation, or the completion step after the last one (R56, R57). -/
def advance (i : Instr) (s : State) : State :=
  match (program i)[s.upc]? with
  | some m => microStep s m
  | none => finish i s

/-- CHECK, where the command has one (42_register_access.md R158). -/
def checkStep (i : Instr) (s : State) : State :=
  match i with
  | .start => s
  | .rstart => s
  | .stop => s
  | .sendbyte _ => s
  | .readword => s
  | .readreg vc _ _ _ => checkRetry vc s

/-- One step of the engine while BUSY = 1. -/
def engineStep (s : State) : Host.Outcome State Fault Refusal :=
  match s.cur with
  | none => .fault .noCommand
  | some i =>
    match s.phase with
    | .idle => .next (advance i s)
    | .run1 => .next (advance i s)
    | .check => .next (checkStep i s)
    | .run2 => .next (advance i s)
    | .done => .next (finish i s)

/-- The engine's turn: while BUSY = 0 it holds its line drives and does nothing (60_exceptions.md R195). -/
def engineTurn (s : State) : Host.Outcome State Fault Refusal :=
  if s.busy then engineStep s else .next s

end Sys2Proof.Machine
end

