-- ==== Sys2Proof/Machine/HostWindow.lean ====
section
/-! DEFINITION. The host's accesses to the register window (20_memory.md R50 to R56) and the compound host action "cmd"
(95_test_vectors.md section 7). -/

namespace Sys2Proof.Machine

/-- The offsets of R50. -/
def cmdOffset : Nat := 0x0
/-- STATUS (R50). -/
def statusOffset : Nat := 0x4
/-- RXDATA (R50). -/
def rxdataOffset : Nat := 0x8

/-- A 32-bit access at an offset that is a multiple of 4, below 0xC (R51, R52). -/
def mappedAccess (off width : Nat) : Bool := width == 4 && off % 4 == 0 && off < 0xC

/-- The value of a host read, recorded for the host (log 12). -/
def State.returned (s : State) (v : Word) : State := { s with reads := s.reads ++ [v] }

/-- A read with BUSY = 1 of a register that then has no stable value (R55, 70_reset_and_hazards.md R205): the value is
made from a free value (log 5). -/
def readBusy (f : Word → Word) (s : State) : State :=
  { s.returned (f (Config.busyReadDraw s.busyDraws)) with busyDraws := s.busyDraws + 1 }

/-- `MemRead(off, width)` (R51 to R55). Nothing of the block is written. -/
def hostRead (off width : Nat) (s : State) : State :=
  if !mappedAccess off width then s.refuse .access
  else if off = cmdOffset then s.returned 0#32
  else if off = statusOffset then
    if s.busy then readBusy busyStatusWord s else s.returned (statusWord s)
  else if s.busy then readBusy id s else s.returned (rxdataWord s)

/-- `IssueCommand(w)` (R56), one atomic host step. -/
def issueCommand (w : Word) (s : State) : State :=
  if s.busy then s.refuse .busy
  else
    match decode w with
    | .error r => s.refuse r
    | .ok i =>
      match refusalOf i s with
      | some r => s.refuse r
      | none => accept i s

/-- `MemWrite(off, width, v)` (R51, R52, R54, R56). -/
def hostWrite (off width : Nat) (v : Word) (s : State) : State :=
  if !mappedAccess off width then s.refuse .access
  else if off = cmdOffset then issueCommand v s
  else s.refuse .access

/-- What a step adds around exec: a refused command leaves the block as it was and marks the run, which goes on
(60_exceptions.md R183, R187; log 6). -/
def afterExec (s : State) (o : Host.Outcome State Fault Refusal) : Host.Outcome State Fault Refusal :=
  match o with
  | .next t => .next t
  | .fault f => .fault f
  | .refused (.refuse r) => .next (s.refuse r)
  | .refused r => .refused r

/-- The host action "cmd": the word is written to CMD and nothing else happens until BUSY = 0 (log 1). RF_BUSY comes
before the decoder's refusals (R56, 60_exceptions.md R185). -/
def runCommandWord (w : Word) (s : State) : Host.Outcome State Fault Refusal :=
  if s.busy then .next (s.refuse .busy)
  else
    match decode w with
    | .error r => .next (s.refuse r)
    | .ok i => afterExec s (exec i s)

end Sys2Proof.Machine
end

