-- ==== Sys2Proof/Machine/Step.lean ====
section
/-! DEFINITION. One step of the machine: the next input is taken, or, where none waits, the engine has its turn
(log 7). -/

namespace Sys2Proof.Machine

/-- One step. -/
def step (s : State) : Host.Outcome State Fault Refusal :=
  match s.inputs with
  | [] => engineTurn s
  | .cmd w :: rest => runCommandWord w { s with inputs := rest }
  | .read off width :: rest => .next (hostRead off width { s with inputs := rest })
  | .write off width v :: rest => .next (hostWrite off width v { s with inputs := rest })
  | .engine :: rest => engineTurn { s with inputs := rest }
  | .reset :: rest => .next (State.applyReset { s with inputs := rest })

/-- The block fetches nothing (20_memory.md R66): a command comes from the host. The state whose next input is the host
action "cmd" with that word (log 7). -/
def State.withFetchWord (s : State) (nbits w : Nat) : State :=
  { s with inputs := .cmd (tableWord nbits w) :: s.inputs }

end Sys2Proof.Machine
end

