-- ==== Sys2Proof/Machine/Assembler.lean ====
section
/-! DEFINITION. The textual form of a command (30_encoding.md R77) and the pseudo-instructions (R78), for hosts: no step
of the machine reads text. A line is a list of characters (log 18). -/

namespace Sys2Proof.Machine

/-- `batread <class>, <regPointer>` (R78), at the addresses `P_WADDR` and `P_RADDR` of an instance (R5). -/
def batread (a : Config.DeviceAddresses) (c : VClass) (regPointer : Byte) : Instr :=
  .readreg (vcOfClass c) a.writeAddr regPointer a.readAddr

/-- `rawread <writeAddr>, <regPointer>, <readAddr>` (R78): one attempt by hand. -/
def rawread (wa rp ra : Byte) : List Instr :=
  [.start, .sendbyte wa, .sendbyte rp, .rstart, .sendbyte ra, .readword, .stop]

/-! ### Words of a line -/

/-- A space or a tab. -/
def isBlank (c : Char) : Bool := c == ' ' || c == '\t'

/-- Without blanks at either end. -/
def trimBlanks (cs : List Char) : List Char :=
  ((cs.dropWhile isBlank).reverse.dropWhile isBlank).reverse

/-- The operands between the commas. -/
def splitCommas : List Char → List (List Char)
  | [] => [[]]
  | c :: cs =>
    match splitCommas cs with
    | [] => [[c]]
    | w :: ws => if c == ',' then [] :: w :: ws else (c :: w) :: ws

/-! ### Operands -/

/-- The value of a digit in a base. -/
def digitValue (base : Nat) (c : Char) : Option Nat :=
  let n := c.toNat
  let v := if 48 ≤ n ∧ n ≤ 57 then some (n - 48)
    else if 97 ≤ n ∧ n ≤ 102 then some (n - 87)
    else if 65 ≤ n ∧ n ≤ 70 then some (n - 55)
    else none
  match v with
  | some d => if d < base then some d else none
  | none => none

/-- Digits, most significant first, on top of what was read before them. -/
def digitsValue (base : Nat) : Nat → List Char → Option Nat
  | acc, [] => some acc
  | acc, c :: cs =>
    match digitValue base c with
    | some d => digitsValue base (acc * base + d) cs
    | none => none

/-- A number, decimal or `0x` hexadecimal (R77). -/
def numberValue (cs : List Char) : Option Nat :=
  match cs with
  | [] => none
  | '0' :: 'x' :: c :: rest => digitsValue 16 0 (c :: rest)
  | c :: rest => digitsValue 10 0 (c :: rest)

/-- A `<u8>`: out of range is an error, never truncated (R77). -/
def byteOperand (cs : List Char) : Option Byte :=
  match numberValue cs with
  | some n => if n < 256 then some (BitVec.ofNat 8 n) else none
  | none => none

/-- The class names of R74. -/
def classNames : List (List Char × VClass) :=
  [ (['S', 'T', 'A', 'T', 'U', 'S'], .status), (['S', 'O', 'C'], .soc),
    (['V', 'O', 'L', 'T', 'A', 'G', 'E'], .voltage), (['C', 'U', 'R', 'R', 'E', 'N', 'T'], .current),
    (['T', 'E', 'M', 'P'], .temp), (['T', 'T', 'E'], .tte), (['T', 'T', 'F'], .ttf) ]

/-- A `<class>`: a class name of R74 or its number 0 to 6 (R77). -/
def classOperand (cs : List Char) : Option VClass :=
  match classNames.lookup cs with
  | some c => some c
  | none =>
    match numberValue cs with
    | some n => if n < 16 then vclassOf (BitVec.ofNat 4 n) else none
    | none => none

/-! ### Lines -/

/-- The commands of a mnemonic in lower case and its operands: the rows of R77 and R78. -/
def assembleWords (a : Config.DeviceAddresses) (mnemonic : List Char) (operands : List (List Char)) : Option (List Instr) :=
  match mnemonic, operands with
  | ['s', 't', 'a', 'r', 't'], [] => some [.start]
  | ['r', 's', 't', 'a', 'r', 't'], [] => some [.rstart]
  | ['s', 't', 'o', 'p'], [] => some [.stop]
  | ['r', 'e', 'a', 'd', 'w', 'o', 'r', 'd'], [] => some [.readword]
  | ['s', 'e', 'n', 'd', 'b', 'y', 't', 'e'], [v] => (byteOperand v).map fun b => [.sendbyte b]
  | ['r', 'e', 'a', 'd', 'r', 'e', 'g'], [c, wa, rp, ra] =>
    match classOperand c, byteOperand wa, byteOperand rp, byteOperand ra with
    | some c, some wa, some rp, some ra => some [.readreg (vcOfClass c) wa rp ra]
    | _, _, _, _ => none
  | ['b', 'a', 't', 'r', 'e', 'a', 'd'], [c, rp] =>
    match classOperand c, byteOperand rp with
    | some c, some rp => some [batread a c rp]
    | _, _ => none
  | ['r', 'a', 'w', 'r', 'e', 'a', 'd'], [wa, rp, ra] =>
    match byteOperand wa, byteOperand rp, byteOperand ra with
    | some wa, some rp, some ra => some (rawread wa rp ra)
    | _, _, _ => none
  | _, _ => none

/-- One line of text: mnemonics in either case (R77); nothing where it is an assembly error. -/
def assemble (a : Config.DeviceAddresses) (line : List Char) : Option (List Instr) :=
  let text := trimBlanks line
  let mnemonic := (text.takeWhile fun c => !isBlank c).map Char.toLower
  let operands := trimBlanks (text.dropWhile fun c => !isBlank c)
  assembleWords a mnemonic (if operands.isEmpty then [] else (splitCommas operands).map trimBlanks)

end Sys2Proof.Machine
end

