-- ==== Sys2Proof/Safety.lean ====
section
/-! DEFINITION. The terms in which claims speak of the block: what a bus trace says (00_scope.md R14, 10_state.md R38,
70_reset_and_hazards.md R209), the traces the commands are to leave, the peer's answers, the invariants
(10_state.md R38, R39) and a conforming run (60_exceptions.md R183). -/

namespace Sys2Proof.Machine

/-! ### Reading a trace -/

/-- The sum of the Wait arguments (R209). -/
def quantaOf : List Event → Nat
  | [] => 0
  | .wait k :: es => k + quantaOf es
  | .float _ :: es => quantaOf es
  | .driveLow _ :: es => quantaOf es
  | .sample _ _ :: es => quantaOf es

/-- The duration in microseconds (R12, R6). -/
def microsOf (es : List Event) : Nat := quantaOf es * Config.pT

/-- The levels sampled, in order. -/
def samplesOf : List Event → List Bool
  | [] => []
  | .sample _ b :: es => b :: samplesOf es
  | .float _ :: es => samplesOf es
  | .driveLow _ :: es => samplesOf es
  | .wait _ :: es => samplesOf es

/-- The drive of a line after an event. -/
def driveAfter (l : Line) (d : Drive) : Event → Drive
  | .float l' => if l' = l then .floating else d
  | .driveLow l' => if l' = l then .drivenLow else d
  | .wait _ => d
  | .sample _ _ => d

/-- The drive of a line after a trace that began with it at `d`. -/
def driveAt (l : Line) (d : Drive) (es : List Event) : Drive := es.foldl (driveAfter l) d

/-- The drives of CLK and DATA at each sample of a trace that began with them at `c` and `d`. -/
def sampleDrives (c d : Drive) : List Event → List (Drive × Drive)
  | [] => []
  | .sample _ _ :: es => (c, d) :: sampleDrives c d es
  | .float l :: es => sampleDrives (driveAfter .clk c (.float l)) (driveAfter .data d (.float l)) es
  | .driveLow l :: es => sampleDrives (driveAfter .clk c (.driveLow l)) (driveAfter .data d (.driveLow l)) es
  | .wait _ :: es => sampleDrives c d es

/-- A change of DATA while CLK floats: falling is a start condition (a repeated one inside a session), rising a stop
condition (00_scope.md R16, 40_bus_conditions.md R100, R103, R105). -/
inductive BusCondition where
  | start
  | stop
  deriving DecidableEq, Repr

/-- The bus conditions the block's drives make in a trace that began with CLK and DATA at `c` and `d`. -/
def conditionsOf (c d : Drive) : List Event → List BusCondition
  | [] => []
  | .float .clk :: es => conditionsOf .floating d es
  | .driveLow .clk :: es => conditionsOf .drivenLow d es
  | .float .data :: es =>
    if c = .floating ∧ d = .drivenLow then .stop :: conditionsOf c .floating es else conditionsOf c .floating es
  | .driveLow .data :: es =>
    if c = .floating ∧ d = .floating then .start :: conditionsOf c .drivenLow es else conditionsOf c .drivenLow es
  | .wait _ :: es => conditionsOf c d es
  | .sample _ _ :: es => conditionsOf c d es

/-- The drive of DATA at each rise of CLK, in a trace that began with DATA at `d`: what a peer that looks at every clock
pulse sees of the block. -/
def pulsedDrives (d : Drive) : List Event → List Drive
  | [] => []
  | .float .clk :: es => d :: pulsedDrives d es
  | .float .data :: es => pulsedDrives .floating es
  | .driveLow .clk :: es => pulsedDrives d es
  | .driveLow .data :: es => pulsedDrives .drivenLow es
  | .wait _ :: es => pulsedDrives d es
  | .sample _ _ :: es => pulsedDrives d es

/-! ### The traces the commands are to leave -/

/-- `ClockPulse()` (00_scope.md R13). -/
def pulseTrace : List Event := [.float .clk, .wait 2, .driveLow .clk, .wait 1]

/-- START (40_bus_conditions.md R100). -/
def startTrace : List Event := [.wait Config.pQuiet, .driveLow .data, .wait 1, .driveLow .clk, .wait 1]

/-- RSTART (R103). -/
def rstartTrace : List Event :=
  [.float .data, .wait 1, .float .clk, .wait 1, .driveLow .data, .wait 1, .driveLow .clk, .wait 1]

/-- STOP (R105). -/
def stopTrace : List Event := [.driveLow .data, .wait 1, .float .clk, .wait 1, .float .data, .wait 1]

/-- A data bit of SENDBYTE (41_byte_transfer.md R120, R121). -/
def bitTrace (b : Bool) : List Event := [if b then .float .data else .driveLow .data, .wait 1] ++ pulseTrace

/-- SENDBYTE of a byte whose acknowledge sample is `a` (R120). -/
def sendbyteTrace (value : Byte) (a : Bool) : List Event :=
  bitTrace (value.getLsbD 7) ++ bitTrace (value.getLsbD 6) ++ bitTrace (value.getLsbD 5) ++ bitTrace (value.getLsbD 4)
    ++ bitTrace (value.getLsbD 3) ++ bitTrace (value.getLsbD 2) ++ bitTrace (value.getLsbD 1)
    ++ bitTrace (value.getLsbD 0)
    ++ [.float .data, .wait 1, .float .clk, .wait 1, .sample .data a, .wait 1, .driveLow .clk, .wait 1]

/-- The sampled bits of one byte, each followed by a pulse (R131). -/
def byteReadTrace (bits : List Bool) : List Event := bits.flatMap fun b => .sample .data b :: pulseTrace

/-- READWORD whose samples are `bits` (R130). -/
def readwordTrace (bits : List Bool) : List Event :=
  byteReadTrace (bits.take 8) ++ [.driveLow .data, .wait 1] ++ pulseTrace ++ [.float .data, .wait 1]
    ++ byteReadTrace (bits.drop 8) ++ [.float .data, .wait 1] ++ pulseTrace

/-! ### The peer's answers and what they make -/

/-- The answers to `n` samples, from a list and a counter. -/
def answersFrom : Nat → List Bool → Nat → List Bool
  | 0, _, _ => []
  | n + 1, peer, draws => answerOf peer draws :: answersFrom n (peer.drop 1) (drawsAfter 1 peer draws)

/-- The next `n` samples of a state. -/
def answers (n : Nat) (s : State) : List Bool := answersFrom n s.peer s.draws

/-- The word of sixteen samples in the order taken (R132): the sum over k of s_k * 2^(7-k), and of s_(8+k) * 2^(15-k). -/
def wordValue (bits : List Bool) : Nat :=
  ((List.range 8).map fun k => (bits.getD k false).toNat * 2 ^ (7 - k)).sum
    + ((List.range 8).map fun k => (bits.getD (8 + k) false).toNat * 2 ^ (15 - k)).sum

/-- The word of sixteen samples, as a `u16`. -/
def wordOf (bits : List Bool) : HalfWord := BitVec.ofNat 16 (wordValue bits)

/-- One attempt's answers: the acknowledge samples of the three bytes, then the sixteen of the word
(42_register_access.md R151). -/
structure AttemptAnswers where
  ackWrite : Bool
  ackPointer : Bool
  ackRead : Bool
  bits : List Bool

/-- The answers of an attempt that begins in `s`. -/
def attemptAnswers (s : State) : AttemptAnswers where
  ackWrite := nextSample s
  ackPointer := nextSample (afterSamples 1 s)
  ackRead := nextSample (afterSamples 2 s)
  bits := answers 16 (afterSamples 3 s)

/-- `RF` of an attempt: some byte was not acknowledged (R152). -/
def AttemptAnswers.failed (a : AttemptAnswers) : Bool := a.ackWrite || a.ackPointer || a.ackRead

/-- `RV` of an attempt (R151). -/
def AttemptAnswers.value (a : AttemptAnswers) : HalfWord := wordOf a.bits

/-- The trace of one attempt (R151). -/
def attemptTrace (wa rp ra : Byte) (a : AttemptAnswers) : List Event :=
  startTrace ++ sendbyteTrace wa a.ackWrite ++ sendbyteTrace rp a.ackPointer ++ rstartTrace
    ++ sendbyteTrace ra a.ackRead ++ readwordTrace a.bits ++ stopTrace

/-- The first attempt is the only one: acknowledged and valid (R153, R157). -/
def oneAttempt (vc : BitVec 4) (s : State) : Bool :=
  !(attemptAnswers s).failed && valid s.bounds vc (attemptAnswers s).value

/-- The answers of the attempt whose result is returned (R154). -/
def returnedAnswers (vc : BitVec 4) (s : State) : AttemptAnswers :=
  if oneAttempt vc s then attemptAnswers s else attemptAnswers (afterSamples 19 s)

/-- The trace of a READREG: one attempt or two (R157). -/
def readregTrace (vc : BitVec 4) (wa rp ra : Byte) (s : State) : List Event :=
  if oneAttempt vc s then attemptTrace wa rp ra (attemptAnswers s)
  else attemptTrace wa rp ra (attemptAnswers s) ++ attemptTrace wa rp ra (attemptAnswers (afterSamples 19 s))

/-! ### Runs -/

/-- No access of the run was refused: the run of a conforming host (60_exceptions.md R183). -/
def State.conforming (s : State) : Bool := s.refusals.isEmpty

/-- The two states agree on everything of the block: they may differ in the refusal mark, in what hosts have read and are
yet to do, and in the counter of free read values. -/
def sameBlock (s t : State) : Prop :=
  t = { s with inputs := t.inputs, reads := t.reads, refusals := t.refusals, busyDraws := t.busyDraws }

/-- The next step is the engine's: no input waits, or the one that waits gives the engine its turn. -/
def engineNext (s : State) : Prop := s.inputs = [] ∨ ∃ rest, s.inputs = .engine :: rest

/-- The next step acts for the command `i`: it is the host action "cmd" with a word of `i`, or the engine's turn with `i`
in CUR. -/
def actsFor (i : Instr) (s : State) : Prop :=
  (∃ w rest, s.inputs = .cmd w :: rest ∧ s.busy = false ∧ decode w = .ok i)
    ∨ (engineNext s ∧ s.busy = true ∧ s.cur = some i)

/-- The next step takes the reset input. -/
def resetNext (s : State) : Prop := ∃ rest, s.inputs = .reset :: rest

/-! ### Invariants -/

/-- With BUSY = 0: no session, both lines float; a session, CLK is driven low (10_state.md R38), and DATA floats exactly
after a SENDBYTE or a READWORD (41_byte_transfer.md R139, 70_reset_and_hazards.md R207). -/
def idleLines (s : State) : Prop :=
  (s.sess = false → s.lineClk = .floating ∧ s.lineData = .floating)
    ∧ (s.sess = true → s.lineClk = .drivenLow ∧ (s.lineData = .floating ↔ s.lastop = 0x4#4 ∨ s.lastop = 0x5#4))

/-- The micro-operations that the command, or its attempt in progress, has yet to run. -/
def remaining (i : Instr) (s : State) : List MicroStep :=
  match s.phase with
  | .idle => (program i).drop s.upc
  | .run1 => ((program i).take 281).drop s.upc
  | .check => []
  | .run2 => (program i).drop s.upc
  | .done => []

/-- Where in its micro-program a command can be (10_state.md R22, R23; 42_register_access.md R158). -/
def placed (i : Instr) (s : State) : Prop :=
  match i with
  | .start => s.phase = .idle ∧ s.upc ≤ 5
  | .rstart => s.phase = .idle ∧ s.upc ≤ 8
  | .stop => s.phase = .idle ∧ s.upc ≤ 6
  | .sendbyte _ => s.phase = .idle ∧ s.upc ≤ 56
  | .readword => s.phase = .idle ∧ s.upc ≤ 94
  | .readreg _ _ _ _ =>
    (s.phase = .run1 ∧ s.upc < 281 ∧ s.att = .first) ∨ (s.phase = .check ∧ s.upc = 281 ∧ s.att = .first)
      ∨ (s.phase = .run2 ∧ 281 ≤ s.upc ∧ s.upc < 562 ∧ s.att = .second) ∨ s.phase = .done

/-- The command in progress, run to its end (or its attempt to its end) and completed. -/
def runOut (i : Instr) (s : State) : State := finish i (runSteps (remaining i s) s)

/-- The invariant of the machine: the drives are what the trace says, ATTEMPTS is not 3 (R30, R39), LASTOP is the opcode
of a command or 0 (R31); with BUSY = 0 the lines are as R38 says; with BUSY = 1 a well-formed command is somewhere in its
micro-program and, run out from there, leaves the lines as R38 says. -/
structure Inv (s : State) : Prop where
  clk_is_trace : s.lineClk = driveAt .clk .floating s.trace
  data_is_trace : s.lineData = driveAt .data .floating s.trace
  attempts_le : s.attempts.toNat ≤ 2
  lastop_le : s.lastop.toNat ≤ 6
  idle : s.busy = false → s.phase = .idle ∧ idleLines s
  running : s.busy = true → ∃ i, s.cur = some i ∧ i.wellFormed = true ∧ placed i s ∧ idleLines (runOut i s)

/-- `n` steps, from a state to a state. -/
def stepsTo (n : Nat) (s t : State) : Prop := Sys2Proof.core.run n s = .next t

end Sys2Proof.Machine
end

