-- ==== Sys2Proof/Certificates/Slice0/Obligations.lean ====
section
/-! DEFINITION. The statements for the provers. Each docstring names the rules of spec/ it formalises. A free value (a
sample that State lists no answer for, a host read with BUSY = 1) stands in them as whatever it is: no statement rests on
what it is. The fields inputs, peer, draws, busyDraws, reads and refusals are the model's own, for the world outside the
block (log 4 to 7, 12); the refusal mark of 60_exceptions.md R183 is the list refusals (log 6). -/

open Sys2Proof Sys2Proof.Machine

/-! ### Encoding -/

/-- The decoder reads the words that 30_encoding.md R77 and 95_test_vectors.md write out (a sanity check). -/
def Obligations.DecodeReadsWrittenWords : Prop :=
  decode 0x00000001#32 = .ok .start ∧ decode 0x00000002#32 = .ok .rstart ∧ decode 0x00000003#32 = .ok .stop
    ∧ decode 0x0000A504#32 = .ok (.sendbyte 0xA5#8) ∧ decode 0x00000005#32 = .ok .readword
    ∧ decode 0x170D1616#32 = .ok (.readreg 1#4 0x16#8 0x0D#8 0x17#8)
    ∧ decode 0x17131666#32 = .ok (.readreg 6#4 0x16#8 0x13#8 0x17#8)
    ∧ decode 0x00000000#32 = .error .reservedOp ∧ decode 0x00000011#32 = .error .reservedField
    ∧ decode 0x170D1676#32 = .error .reservedVClass

/-- 30_encoding.md R72 and R73: what every word decodes to, with the fields as bits of the word. -/
def Obligations.DecodeFollowsTheOpcodeMap : Prop :=
  ∀ w : Word,
    ((w.extractLsb' 0 4).toNat = 0 ∨ 7 ≤ (w.extractLsb' 0 4).toNat → decode w = .error .reservedOp)
    ∧ (w.extractLsb' 0 4 = 0x1#4 →
        decode w = if w.extractLsb' 4 28 = 0#28 then .ok .start else .error .reservedField)
    ∧ (w.extractLsb' 0 4 = 0x2#4 →
        decode w = if w.extractLsb' 4 28 = 0#28 then .ok .rstart else .error .reservedField)
    ∧ (w.extractLsb' 0 4 = 0x3#4 →
        decode w = if w.extractLsb' 4 28 = 0#28 then .ok .stop else .error .reservedField)
    ∧ (w.extractLsb' 0 4 = 0x4#4 →
        decode w = if w.extractLsb' 4 4 = 0#4 ∧ w.extractLsb' 16 16 = 0#16
          then .ok (.sendbyte (w.extractLsb' 8 8)) else .error .reservedField)
    ∧ (w.extractLsb' 0 4 = 0x5#4 →
        decode w = if w.extractLsb' 4 28 = 0#28 then .ok .readword else .error .reservedField)
    ∧ (w.extractLsb' 0 4 = 0x6#4 →
        decode w = if 6 < (w.extractLsb' 4 4).toNat then .error .reservedVClass
          else .ok (.readreg (w.extractLsb' 4 4) (w.extractLsb' 8 8) (w.extractLsb' 16 8) (w.extractLsb' 24 8)))

/-- Decode and encode agree: every well-formed command, with every operand the encoding admits. -/
def Obligations.DecodeOfEncodeIsTheCommand : Prop :=
  ∀ i : Instr, i.wellFormed = true → decode (encode i) = .ok i

/-- Encode and decode agree: a word that decodes is the one word of a well-formed command. -/
def Obligations.EncodeOfDecodeIsTheWord : Prop :=
  ∀ (w : Word) (i : Instr), decode w = .ok i → i.wellFormed = true ∧ encode i = w

/-- The "word" column of 30_encoding.md R77, as it is written there, and `batread` of R78 at any
`P_WADDR` and `P_RADDR`, and at the defaults of 00_scope.md R5. -/
def Obligations.EncodeIsTheWrittenFormula : Prop :=
  encode .start = 0x00000001#32 ∧ encode .rstart = 0x00000002#32 ∧ encode .stop = 0x00000003#32
    ∧ (∀ v : Byte, encode (.sendbyte v) = (v.zeroExtend 32 <<< 8) ||| 0x4#32)
    ∧ encode .readword = 0x00000005#32
    ∧ (∀ (vc : BitVec 4) (wa rp ra : Byte), encode (.readreg vc wa rp ra)
        = (ra.zeroExtend 32 <<< 24) ||| (rp.zeroExtend 32 <<< 16) ||| (wa.zeroExtend 32 <<< 8)
          ||| (vc.zeroExtend 32 <<< 4) ||| 0x6#32)
    ∧ (∀ (a : Config.DeviceAddresses) (c : VClass) (rp : Byte),
        batread a c rp = .readreg (vcOfClass c) a.writeAddr rp a.readAddr ∧ (batread a c rp).wellFormed = true)
    ∧ (∀ (c : VClass) (rp : Byte),
        batread Config.defaultAddresses c rp = .readreg (vcOfClass c) 0x16#8 rp 0x17#8)

/-! ### The step -/

/-- A step runs the decoded command: with the host action "cmd" next and BUSY = 0, the step is exec of the decoded command
on the state with that input taken; where exec refuses, the block is left as it was and the run marked (60_exceptions.md
R183). The command placed by `withFetchWord` is run by the very next step. (The compound action and the list of inputs
are the model's choice, log 1 and 7.) -/
def Obligations.StepRunsTheDecodedCommand : Prop :=
  (∀ (s : State) (w : Word) (rest : List Input) (i : Instr),
    s.inputs = .cmd w :: rest → s.busy = false → decode w = .ok i →
      (∀ t, exec i { s with inputs := rest } = .next t → step s = .next t)
      ∧ (∀ r, exec i { s with inputs := rest } = .refused (.refuse r) →
          step s = .next { s with inputs := rest, refusals := s.refusals ++ [r] }))
    ∧ (∀ (s : State) (i : Instr), i.wellFormed = true → s.busy = false →
      (∀ t, exec i s = .next t → step (s.withFetchWord 32 (encode i).toNat) = .next t)
      ∧ (∀ r, exec i s = .refused (.refuse r) →
          step (s.withFetchWord 32 (encode i).toNat) = .next { s with refusals := s.refusals ++ [r] }))

/-- The outcome of every command in every state, and the reported refusal: the first that applies in the order of
60_exceptions.md R185. (The refusal of an ill-formed READREG by exec is the model's choice, log 19.) -/
def Obligations.CommandRefusedForTheFirstReason : Prop :=
  ∀ (i : Instr) (s : State),
    match (if s.busy then some RefuseReason.busy
      else match i with
        | .start => if s.sess then some .session else none
        | .rstart => if s.sess then none else some .session
        | .stop => if s.sess then none else some .session
        | .sendbyte _ => if s.sess then none else some .session
        | .readword =>
          if s.sess then (if s.lineData = .drivenLow then some .lineState else none) else some .session
        | .readreg vc _ _ _ =>
          if 6 < vc.toNat then some .reservedVClass else if s.sess then some .session else none) with
    | some r => exec i s = .refused (.refuse r)
    | none => ∃ t, exec i s = .next t

/-- 40_bus_conditions.md R104, R106, 41_byte_transfer.md R126, 42_register_access.md R159: the session rule of the
commands, for the command itself and for the host's CMD write of its word. -/
def Obligations.SessionRuleOfTheCommands : Prop :=
  ∀ s : State, s.busy = false →
    (∀ i : Instr, (i = .rstart ∨ i = .stop ∨ ∃ v, i = .sendbyte v) →
      (s.sess = true → ∃ t, exec i s = .next t)
      ∧ (s.sess = false → exec i s = .refused (.refuse .session)
        ∧ ∀ rest, step { s with inputs := .write 0x0 4 (encode i) :: rest }
            = .next { s with inputs := rest, refusals := s.refusals ++ [.session] }))
    ∧ (∀ (vc : BitVec 4) (wa rp ra : Byte), vc.toNat ≤ 6 →
      (s.sess = false → ∃ t, exec (.readreg vc wa rp ra) s = .next t)
      ∧ (s.sess = true → exec (.readreg vc wa rp ra) s = .refused (.refuse .session)
        ∧ ∀ rest, step { s with inputs := .write 0x0 4 (encode (.readreg vc wa rp ra)) :: rest }
            = .next { s with inputs := rest, refusals := s.refusals ++ [.session] }))

/-- 40_bus_conditions.md R101: START with a session open is refused; an accepted START finds both lines floating. -/
def Obligations.StartBeginsFromAnIdleBus : Prop :=
  (∀ s : State, s.busy = false → s.sess = true → exec .start s = .refused (.refuse .session)
    ∧ ∀ rest, step { s with inputs := .write 0x0 4 0x00000001#32 :: rest }
        = .next { s with inputs := rest, refusals := s.refusals ++ [.session] })
  ∧ (∀ s : State, s.busy = false → s.sess = false → ∃ t, exec .start s = .next t)
  ∧ (∀ s : State, Inv s → s.busy = false → s.sess = false → s.lineClk = .floating ∧ s.lineData = .floating)

/-- 41_byte_transfer.md R139 and 70_reset_and_hazards.md R207: when READWORD is accepted, where DATA stands after the
commands, and so after which commands of a session READWORD can be accepted. -/
def Obligations.ReadwordNeedsFloatingData : Prop :=
  (∀ s : State, s.busy = false →
    (s.sess = false → exec .readword s = .refused (.refuse .session))
    ∧ (s.sess = true → s.lineData = .drivenLow → exec .readword s = .refused (.refuse .lineState))
    ∧ (s.sess = true → s.lineData = .floating → ∃ t, exec .readword s = .next t))
  ∧ (∀ s t : State,
    (∀ v, exec (.sendbyte v) s = .next t → t.lineData = .floating)
    ∧ (exec .readword s = .next t → t.lineData = .floating)
    ∧ (exec .start s = .next t → t.lineData = .drivenLow)
    ∧ (exec .rstart s = .next t → t.lineData = .drivenLow))
  ∧ (∀ s t : State, Inv s → exec .readword s = .next t → s.lastop = 0x4#4 ∨ s.lastop = 0x5#4)

/-- The host action "cmd" where no command comes of it: BUSY = 1 comes first, then the decoder's refusals (20_memory.md
R56, 60_exceptions.md R185). -/
def Obligations.CommandWordRefused : Prop :=
  ∀ (s : State) (w : Word) (rest : List Input), s.inputs = .cmd w :: rest →
    (s.busy = true → step s = .next { s with inputs := rest, refusals := s.refusals ++ [.busy] })
    ∧ (∀ r, s.busy = false → decode w = .error r →
        step s = .next { s with inputs := rest, refusals := s.refusals ++ [r] })

/-! ### Commands -/

/-- 40_bus_conditions.md R100: START completes; its trace, what it writes, and that it writes nothing else (`CUR` and
`upc` hold no meaningful value then, 10_state.md R22). -/
def Obligations.StartOpensASession : Prop :=
  decode 0x00000001#32 = .ok .start
  ∧ (∀ s : State, s.busy = false → s.sess = false →
    ∃ t, exec .start s = .next t ∧ t = { s with
      lineClk := .drivenLow, lineData := .drivenLow, sess := true, err := false, lastop := 0x1#4
      trace := s.trace ++ [.wait Config.pQuiet, .driveLow .data, .wait 1, .driveLow .clk, .wait 1]
      cur := t.cur, upc := t.upc })
  ∧ (∀ s : State, s.busy = false → s.sess = true → exec .start s = .refused (.refuse .session))
  ∧ (∃ t, exec .start State.reset = .next t ∧ statusWord t = 0x00000102#32)

/-- 40_bus_conditions.md R103: RSTART completes; its trace, what it writes, and that it writes nothing else. -/
def Obligations.RstartRepeatsTheStart : Prop :=
  decode 0x00000002#32 = .ok .rstart
  ∧ (∀ s : State, s.busy = false → s.sess = true →
    ∃ t, exec .rstart s = .next t ∧ t = { s with
      lineClk := .drivenLow, lineData := .drivenLow, lastop := 0x2#4
      trace := s.trace ++ [.float .data, .wait 1, .float .clk, .wait 1, .driveLow .data, .wait 1, .driveLow .clk, .wait 1]
      cur := t.cur, upc := t.upc })
  ∧ (∀ s : State, s.busy = false → s.sess = false → exec .rstart s = .refused (.refuse .session))

/-- 40_bus_conditions.md R105: STOP completes; its trace, what it writes, and that it writes nothing else (ERR is
kept). -/
def Obligations.StopClosesTheSession : Prop :=
  decode 0x00000003#32 = .ok .stop
  ∧ (∀ s : State, s.busy = false → s.sess = true →
    ∃ t, exec .stop s = .next t ∧ t = { s with
      lineClk := .floating, lineData := .floating, sess := false, lastop := 0x3#4
      trace := s.trace ++ [.driveLow .data, .wait 1, .float .clk, .wait 1, .float .data, .wait 1]
      cur := t.cur, upc := t.upc })
  ∧ (∀ s : State, s.busy = false → s.sess = false → exec .stop s = .refused (.refuse .session))

/-- 41_byte_transfer.md R120: SENDBYTE completes for every byte; its trace, what it writes, and that it writes nothing else
(one answer of the peer is used up). -/
def Obligations.SendbyteCompletes : Prop :=
  ∀ v : Byte,
    decode ((v.zeroExtend 32 <<< 8) ||| 0x4#32) = .ok (.sendbyte v)
    ∧ (∀ s : State, s.busy = false → s.sess = true →
      ∃ t, exec (.sendbyte v) s = .next t ∧ t = { s with
        lineClk := .drivenLow, lineData := .floating, txb := v, ackSample := nextSample s
        ack := !nextSample s, err := s.err || nextSample s, lastop := 0x4#4
        trace := s.trace ++ sendbyteTrace v (nextSample s)
        peer := (afterSamples 1 s).peer, draws := (afterSamples 1 s).draws, cur := t.cur, upc := t.upc })
    ∧ (∀ s : State, s.busy = false → s.sess = false → exec (.sendbyte v) s = .refused (.refuse .session))

/-- 41_byte_transfer.md R123: the acknowledge sample decides ACK and ERR. -/
def Obligations.AcknowledgeSampleDecides : Prop :=
  ∀ (v : Byte) (s : State), s.busy = false → s.sess = true →
    ∃ t, exec (.sendbyte v) s = .next t
      ∧ (nextSample s = false → t.ack = true ∧ t.err = s.err)
      ∧ (nextSample s = true → t.ack = false ∧ t.err = true)

/-- 41_byte_transfer.md R121 (and 20_memory.md R60, example E1): a peer that looks at DATA at every rise of CLK sees the
eight bits of the byte, bit 7 first, a 1 as a floated line, then the floated line of the acknowledge slot; each bit is
set while CLK is low and clocked by one pulse. -/
def Obligations.SendbyteShowsItsBitsMsbFirst : Prop :=
  ∀ (v : Byte) (s : State), s.busy = false → s.sess = true →
    ∃ t es, exec (.sendbyte v) s = .next t ∧ t.trace = s.trace ++ es
      ∧ pulsedDrives s.lineData es
          = ([7, 6, 5, 4, 3, 2, 1, 0].map fun i => if v.getLsbD i then Drive.floating else .drivenLow) ++ [.floating]
      ∧ es.take 48 = ([7, 6, 5, 4, 3, 2, 1, 0].flatMap fun i =>
          [if v.getLsbD i then Event.float .data else .driveLow .data, .wait 1, .float .clk, .wait 2, .driveLow .clk,
            .wait 1])
      ∧ (Inv s → ∀ k < 8, driveAt .clk s.lineClk (es.take (6 * k)) = .drivenLow)

/-- 41_byte_transfer.md R130: READWORD completes; its trace, what it writes, and that it writes nothing else (neither ERR
nor ACK, R137; sixteen answers of the peer are used up). -/
def Obligations.ReadwordCompletes : Prop :=
  decode 0x00000005#32 = .ok .readword
  ∧ (∀ s : State, s.busy = false → s.sess = true → s.lineData = .floating →
    ∃ t, exec .readword s = .next t ∧ t = { s with
      lineClk := .drivenLow, lineData := .floating, sr := wordOf (answers 16 s), rxdata := wordOf (answers 16 s)
      lastop := 0x5#4, trace := s.trace ++ readwordTrace (answers 16 s)
      peer := (afterSamples 16 s).peer, draws := (afterSamples 16 s).draws, cur := t.cur, upc := t.upc })
  ∧ (∀ s : State, s.busy = false → s.sess = false → exec .readword s = .refused (.refuse .session))
  ∧ (∀ s : State, s.busy = false → s.sess = true → s.lineData = .drivenLow →
      exec .readword s = .refused (.refuse .lineState))

/-- 41_byte_transfer.md R132: RXDATA is the sum over the sixteen samples in the order taken, low byte first, each byte
most significant bit first, whatever SR held. -/
def Obligations.ReadwordAssemblesItsSamples : Prop :=
  ∀ s : State, s.busy = false → s.sess = true → s.lineData = .floating →
    ∃ t es, exec .readword s = .next t ∧ t.trace = s.trace ++ es
      ∧ (samplesOf es).length = 16 ∧ t.sr = t.rxdata
      ∧ t.rxdata.toNat = ((List.range 8).map fun k => ((samplesOf es).getD k false).toNat * 2 ^ (7 - k)).sum
          + ((List.range 8).map fun k => ((samplesOf es).getD (8 + k) false).toNat * 2 ^ (15 - k)).sum

/-- 42_register_access.md R150, R153, R155 to R157: READREG completes for every class and operands: an acknowledged and
valid first attempt is the only one, otherwise there are exactly two and the second is returned; its trace is that of its
attempts, none cut short, and it writes nothing else. With a session open it is refused. -/
def Obligations.ReadregCompletes : Prop :=
  ∀ (vc : BitVec 4) (wa rp ra : Byte), vc.toNat ≤ 6 →
    decode ((ra.zeroExtend 32 <<< 24) ||| (rp.zeroExtend 32 <<< 16) ||| (wa.zeroExtend 32 <<< 8)
      ||| (vc.zeroExtend 32 <<< 4) ||| 0x6#32) = .ok (.readreg vc wa rp ra)
    ∧ (∀ s : State, s.busy = false → s.sess = false →
      ∃ t, exec (.readreg vc wa rp ra) s = .next t ∧ t = { s with
        lineClk := .floating, lineData := .floating, txb := ra
        ackSample := (returnedAnswers vc s).ackRead, ack := !(returnedAnswers vc s).ackRead
        err := (returnedAnswers vc s).failed, rf := (returnedAnswers vc s).failed
        failed := (returnedAnswers vc s).failed
        sr := (returnedAnswers vc s).value, rv := (returnedAnswers vc s).value, rxdata := (returnedAnswers vc s).value
        valid := valid s.bounds vc (returnedAnswers vc s).value
        att := if oneAttempt vc s then .first else .second
        attempts := if oneAttempt vc s then 1#2 else 2#2
        phase := .idle, sess := false, lastop := 0x6#4
        trace := s.trace ++ readregTrace vc wa rp ra s
        peer := (afterSamples (if oneAttempt vc s then 19 else 38) s).peer
        draws := (afterSamples (if oneAttempt vc s then 19 else 38) s).draws
        cur := t.cur, upc := t.upc })
    ∧ (∀ s : State, s.busy = false → s.sess = true → exec (.readreg vc wa rp ra) s = .refused (.refuse .session))

/-- 42_register_access.md R157 and example E3: a peer that never acknowledges and never answers gets exactly two full
transactions, each a start, a repeated start and a stop, and the second, failed result is returned; its VALID is that of
0xFFFF in the class, which at the default parameters of 00_scope.md R5 is 0. -/
def Obligations.SilentPeerGetsTwoTransactions : Prop :=
  ∀ (vc : BitVec 4) (wa rp ra : Byte) (s : State), vc.toNat ≤ 6 → Inv s → s.busy = false → s.sess = false →
    answers 38 s = List.replicate 38 true →
    ∃ t es, exec (.readreg vc wa rp ra) s = .next t ∧ t.trace = s.trace ++ es
      ∧ conditionsOf s.lineClk s.lineData es = [.start, .start, .stop, .start, .start, .stop]
      ∧ t.rxdata = 0xFFFF#16 ∧ t.failed = true ∧ t.attempts = 2#2 ∧ t.err = true ∧ t.ack = false
      ∧ t.valid = valid s.bounds vc 0xFFFF#16 ∧ (s.bounds = Config.defaultBounds → t.valid = false)

/-- 30_encoding.md R78 with 42_register_access.md R151: the seven commands of `rawread`, one after the other, leave the
trace, the word and the error flag of one READREG attempt, and no session. -/
def Obligations.RawreadIsOneAttempt : Prop :=
  ∀ (wa rp ra : Byte) (s : State), s.busy = false → s.sess = false → s.inputs = [] →
    ∃ t, stepsTo 7 { s with inputs := (rawread wa rp ra).map fun i => .cmd (encode i) } t
      ∧ t.trace = s.trace ++ attemptTrace wa rp ra (attemptAnswers s)
      ∧ t.rxdata = (attemptAnswers s).value ∧ t.err = (attemptAnswers s).failed
      ∧ t.sess = false ∧ t.busy = false ∧ t.inputs = [] ∧ t.refusals = s.refusals
      ∧ t.lineClk = .floating ∧ t.lineData = .floating

/-! ### What the commands do on the bus -/

/-- 41_byte_transfer.md R124 and R133, 00_scope.md R11: the drives of CLK and DATA at every sample of SENDBYTE, of
READWORD and of the attempts of a READREG. -/
def Obligations.SamplesTakenWithDataFloating : Prop :=
  ∀ s : State, Inv s →
    (∀ v t, exec (.sendbyte v) s = .next t →
      ∃ es, t.trace = s.trace ++ es ∧ sampleDrives s.lineClk s.lineData es = [(.floating, .floating)])
    ∧ (∀ t, exec .readword s = .next t →
      ∃ es, t.trace = s.trace ++ es
        ∧ sampleDrives s.lineClk s.lineData es = List.replicate 16 (.drivenLow, .floating))
    ∧ (∀ vc wa rp ra t, exec (.readreg vc wa rp ra) s = .next t →
      ∃ es, t.trace = s.trace ++ es
        ∧ sampleDrives s.lineClk s.lineData es
            = (List.replicate (if oneAttempt vc s then 1 else 2)
                (List.replicate 3 (.floating, .floating) ++ List.replicate 16 (.drivenLow, .floating))).flatten)

/-- 10_state.md R38, 40_bus_conditions.md R100, R103, R105: DATA changes while CLK floats only to make the start, repeated
start and stop conditions, each command exactly its own. -/
def Obligations.CommandsMakeExactlyTheirConditions : Prop :=
  ∀ (i : Instr) (s t : State), Inv s → exec i s = .next t →
    ∃ es, t.trace = s.trace ++ es
      ∧ (match i with
        | .start => conditionsOf s.lineClk s.lineData es = [.start]
        | .rstart => conditionsOf s.lineClk s.lineData es = [.start]
        | .stop => conditionsOf s.lineClk s.lineData es = [.stop]
        | .sendbyte _ => conditionsOf s.lineClk s.lineData es = []
        | .readword => conditionsOf s.lineClk s.lineData es = []
        | .readreg vc _ _ _ => conditionsOf s.lineClk s.lineData es
            = if oneAttempt vc s then [.start, .start, .stop] else [.start, .start, .stop, .start, .start, .stop])

/-- The table of 70_reset_and_hazards.md R209: quanta, micro-operations and samples of every command. -/
def Obligations.DurationsAndCountsOfTheCommands : Prop :=
  ∀ (i : Instr) (s t : State), exec i s = .next t →
    ∃ es, t.trace = s.trace ++ es
      ∧ (match i with
        | .start => quantaOf es = Config.pQuiet + 2 ∧ es.length = 5 ∧ (samplesOf es).length = 0
        | .rstart => quantaOf es = 4 ∧ es.length = 8 ∧ (samplesOf es).length = 0
        | .stop => quantaOf es = 3 ∧ es.length = 6 ∧ (samplesOf es).length = 0
        | .sendbyte _ => quantaOf es = 36 ∧ es.length = 56 ∧ (samplesOf es).length = 1
        | .readword => quantaOf es = 57 ∧ es.length = 94 ∧ (samplesOf es).length = 16
        | .readreg vc _ _ _ =>
          if oneAttempt vc s then
            quantaOf es = Config.pQuiet + 174 ∧ es.length = 281 ∧ (samplesOf es).length = 19
          else quantaOf es = 2 * (Config.pQuiet + 174) ∧ es.length = 562 ∧ (samplesOf es).length = 38)

/-! ### Validity classes -/

/-- 42_register_access.md R161 to R167: when a value is valid in each class, for an instance with any bounds (R163 and R165
leave them open), and at the default ones of 00_scope.md R5. -/
def Obligations.ValidityOfEachClass : Prop :=
  (∀ (b : Config.Bounds) (v : HalfWord),
    (valid b 0#4 v = true ↔ v ≠ 0xFFFF#16)
    ∧ (valid b 1#4 v = true ↔ v.toNat < 150)
    ∧ (valid b 2#4 v = true ↔ b.voltLo < v.toNat ∧ v.toNat < b.voltHi)
    ∧ (valid b 3#4 v = true ↔ v.toNat ≤ 0x0BB7 ∨ (0x8000 ≤ v.toNat ∧ v.toNat ≤ 0xFFFE))
    ∧ (valid b 3#4 v = true ↔ v.toInt < 3000 ∧ v.toInt ≠ -1)
    ∧ (valid b 4#4 v = true ↔ v.toNat < b.tempMin)
    ∧ (valid b 5#4 v = true ↔ v.toNat ≤ 1000)
    ∧ (valid b 6#4 v = true ↔ 1 ≤ v.toNat ∧ v.toNat ≤ 1000))
  ∧ (∀ v : HalfWord,
    (valid Config.defaultBounds 2#4 v = true ↔ 6001 ≤ v.toNat ∧ v.toNat ≤ 21999)
    ∧ (valid Config.defaultBounds 4#4 v = true ↔ v.toNat < 3132))

/-- 42_register_access.md R168: the sentinel is invalid in every class, with the default parameters. -/
def Obligations.SentinelInvalidInEveryClass : Prop :=
  ∀ vc : BitVec 4, vc.toNat ≤ 6 → valid Config.defaultBounds vc 0xFFFF#16 = false

/-! ### Who writes what -/

/-- 10_state.md R24 to R30, "only ... writes it", over every step of the machine from every state: a step that changes a
flag or a result acts for a command that writes it, or is the reset input. -/
def Obligations.OnlyTheirCommandsWriteTheFlags : Prop :=
  ∀ s t : State, step s = .next t → ¬ resetNext s →
    (t.sess ≠ s.sess → ∃ i, actsFor i s ∧ (i = .start ∨ i = .stop ∨ i.opcode = 0x6#4))
    ∧ (t.err ≠ s.err → ∃ i, actsFor i s ∧ (i = .start ∨ i.opcode = 0x4#4 ∨ i.opcode = 0x6#4))
    ∧ (t.ack ≠ s.ack → ∃ i, actsFor i s ∧ (i.opcode = 0x4#4 ∨ i.opcode = 0x6#4))
    ∧ (t.rxdata ≠ s.rxdata → ∃ i, actsFor i s ∧ (i = .readword ∨ i.opcode = 0x6#4))
    ∧ (t.failed ≠ s.failed → ∃ i, actsFor i s ∧ i.opcode = 0x6#4)
    ∧ (t.valid ≠ s.valid → ∃ i, actsFor i s ∧ i.opcode = 0x6#4)
    ∧ (t.attempts ≠ s.attempts → ∃ i, actsFor i s ∧ i.opcode = 0x6#4)

/-- 10_state.md R25, R39: ERR, once set, is cleared by no step but the reset input and one that acts for a START, its own or
that of a READREG attempt. -/
def Obligations.ErrClearedOnlyByAStart : Prop :=
  ∀ s t : State, step s = .next t → s.err = true → t.err = false →
    resetNext s ∨ ∃ i, actsFor i s ∧ (i = .start ∨ i.opcode = 0x6#4)

/-- 10_state.md R31: LASTOP is the opcode of the command a step completes, no other step but the reset input writes it, and
it is 0 at reset. -/
def Obligations.LastopIsTheCompletedOpcode : Prop :=
  (∀ (i : Instr) (s t : State), exec i s = .next t → t.lastop = i.opcode ∧ t.busy = false)
  ∧ (∀ s t : State, step s = .next t → ¬ resetNext s →
    (s.busy = true → t.busy = false → ∃ i, s.cur = some i ∧ t.lastop = i.opcode)
    ∧ (t.lastop ≠ s.lastop → t.busy = false ∧ ∃ i, actsFor i s ∧ t.lastop = i.opcode))
  ∧ State.reset.lastop = 0#4

/-! ### The host window -/

/-- 20_memory.md R53: a read of CMD returns 0 and changes nothing (the value is given to the host). -/
def Obligations.CmdReadsAsZero : Prop :=
  ∀ (s : State) (rest : List Input), s.inputs = .read 0x0 4 :: rest →
    step s = .next { s with inputs := rest, reads := s.reads ++ [0x00000000#32] }

/-- 20_memory.md R51, R52, R54: the accesses refused with RF_ACCESS, which read no value and write no state. -/
def Obligations.BadAccessesRefused : Prop :=
  ∀ (s : State) (off width : Nat) (v : Word) (rest : List Input),
    ((width ≠ 4 ∨ off % 4 ≠ 0 ∨ 0xC ≤ off) →
      step { s with inputs := .read off width :: rest }
          = .next { s with inputs := rest, refusals := s.refusals ++ [.access] }
      ∧ step { s with inputs := .write off width v :: rest }
          = .next { s with inputs := rest, refusals := s.refusals ++ [.access] })
    ∧ (off = 0x4 ∨ off = 0x8 →
      step { s with inputs := .write off 4 v :: rest }
          = .next { s with inputs := rest, refusals := s.refusals ++ [.access] })

/-- 20_memory.md R55: with BUSY = 0 STATUS and RXDATA read as the state; with BUSY = 1 STATUS reads some value with bit 0
set and RXDATA some value; neither read touches the block. -/
def Obligations.StatusAndRxdataReads : Prop :=
  ∀ (s : State) (rest : List Input),
    (s.busy = false →
      step { s with inputs := .read 0x4 4 :: rest }
          = .next { s with inputs := rest, reads := s.reads ++ [statusWord s] }
      ∧ step { s with inputs := .read 0x8 4 :: rest }
          = .next { s with inputs := rest, reads := s.reads ++ [rxdataWord s] })
    ∧ (s.busy = true →
      (∃ v : Word, v.getLsbD 0 = true ∧ step { s with inputs := .read 0x4 4 :: rest }
          = .next { s with inputs := rest, reads := s.reads ++ [v], busyDraws := s.busyDraws + 1 })
      ∧ (∃ v : Word, step { s with inputs := .read 0x8 4 :: rest }
          = .next { s with inputs := rest, reads := s.reads ++ [v], busyDraws := s.busyDraws + 1 }))

/-- 10_state.md R33 and R34: the fields of STATUS and of the RXDATA register, the reserved bits, the reset values, the
offsets they are read at; a host write to either is refused and changes no field. -/
def Obligations.LayoutOfTheHostRegisters : Prop :=
  (∀ s : State,
    (statusWord s).getLsbD 0 = s.busy ∧ (statusWord s).getLsbD 1 = s.sess ∧ (statusWord s).getLsbD 2 = s.err
    ∧ (statusWord s).getLsbD 3 = s.ack ∧ (statusWord s).getLsbD 4 = s.failed ∧ (statusWord s).getLsbD 5 = s.valid
    ∧ (statusWord s).extractLsb' 6 2 = s.attempts ∧ (statusWord s).extractLsb' 8 4 = s.lastop
    ∧ (statusWord s).extractLsb' 12 20 = 0#20
    ∧ (rxdataWord s).extractLsb' 0 16 = s.rxdata ∧ (rxdataWord s).extractLsb' 16 16 = 0#16)
  ∧ statusWord State.reset = 0x00000000#32 ∧ rxdataWord State.reset = 0x0000FFFF#32
  ∧ (∀ (s : State) (rest : List Input), s.busy = false →
    step { s with inputs := .read 0x4 4 :: rest }
        = .next { s with inputs := rest, reads := s.reads ++ [statusWord s] }
    ∧ step { s with inputs := .read 0x8 4 :: rest }
        = .next { s with inputs := rest, reads := s.reads ++ [rxdataWord s] })
  ∧ (∀ (s : State) (off : Nat) (v : Word) (rest : List Input), off = 0x4 ∨ off = 0x8 →
    step { s with inputs := .write off 4 v :: rest }
      = .next { s with inputs := rest, refusals := s.refusals ++ [.access] })

/-- 20_memory.md R56: what a write of CMD does: RF_BUSY first, then the decoder, then the precondition (the outcome exec
gives); an accepted command is latched with `upc` 0 and BUSY 1 (for READREG, RUN1 with ATT 1 is entered,
42_register_access.md R158), and nothing else is written. -/
def Obligations.CmdWriteIssuesTheCommand : Prop :=
  ∀ (s : State) (w : Word) (rest : List Input), s.inputs = .write 0x0 4 w :: rest →
    (s.busy = true → step s = .next { s with inputs := rest, refusals := s.refusals ++ [.busy] })
    ∧ (s.busy = false →
      (∀ r, decode w = .error r → step s = .next { s with inputs := rest, refusals := s.refusals ++ [r] })
      ∧ (∀ i, decode w = .ok i →
        (∀ r, exec i s = .refused (.refuse r) →
          step s = .next { s with inputs := rest, refusals := s.refusals ++ [r] })
        ∧ (∀ u, exec i s = .next u →
          step s = .next { s with
            inputs := rest, cur := some i, upc := 0, busy := true
            att := if i.opcode = 0x6#4 then .first else s.att
            phase := if i.opcode = 0x6#4 then .run1 else s.phase })))

/-- 60_exceptions.md R183: a step that marks the run writes no state of the block and moves no line. -/
def Obligations.RefusedAccessesWriteNothing : Prop :=
  ∀ s t : State, step s = .next t → t.refusals ≠ s.refusals → sameBlock s t

/-! ### The engine -/

/-- 00_scope.md R9 to R12, R14: what each micro-operation does: its one line, its one event and the bit it samples. -/
def Obligations.MicroOperationsDoOneThing : Prop :=
  (∀ (l : Line) (s : State), (runMicro (.float l) s).line l = .floating
      ∧ (runMicro (.driveLow l) s).line l = .drivenLow
      ∧ (∀ l', l' ≠ l → (runMicro (.float l) s).line l' = s.line l' ∧ (runMicro (.driveLow l) s).line l' = s.line l')
      ∧ runMicro (.float l) s
          = { s with lineClk := (runMicro (.float l) s).lineClk, lineData := (runMicro (.float l) s).lineData
                     trace := s.trace ++ [.float l] }
      ∧ runMicro (.driveLow l) s
          = { s with lineClk := (runMicro (.driveLow l) s).lineClk, lineData := (runMicro (.driveLow l) s).lineData
                     trace := s.trace ++ [.driveLow l] })
  ∧ (∀ (k : Nat) (s : State), runMicro (.wait k) s = { s with trace := s.trace ++ [.wait k] })
  ∧ (∀ s : State, runMicro .sampleAck s = { s with
      ackSample := nextSample s, trace := s.trace ++ [.sample .data (nextSample s)]
      peer := (afterSamples 1 s).peer, draws := (afterSamples 1 s).draws })
  ∧ (∀ (i : Nat) (s : State), i < 16 → ∃ v : HalfWord,
    (∀ j, v.getLsbD j = if j = i then nextSample s else s.sr.getLsbD j)
    ∧ runMicro (.sampleBit i) s = { s with
        sr := v, trace := s.trace ++ [.sample .data (nextSample s)]
        peer := (afterSamples 1 s).peer, draws := (afterSamples 1 s).draws })

/-- 00_scope.md R14, 10_state.md R22, 20_memory.md R56: an engine step with BUSY = 1 either runs one micro-operation (one
event in the trace, `upc` one on, BUSY kept), or is CHECK (42_register_access.md R158) or the completion step, which
leave trace and lines alone. (That these two are steps of their own is the model's reading, log 2.) -/
def Obligations.EngineRunsOneMicroOperationAStep : Prop :=
  ∀ s : State, Inv s → s.busy = true → engineNext s →
    ∃ t, step s = .next t
      ∧ ((∃ e, t.trace = s.trace ++ [e] ∧ t.upc = s.upc + 1 ∧ t.busy = true ∧ t.cur = s.cur)
        ∨ (t.trace = s.trace ∧ t.upc = s.upc ∧ t.lineClk = s.lineClk ∧ t.lineData = s.lineData
          ∧ ((s.phase = .check ∧ t.busy = true) ∨ t.busy = false)))

/-- 20_memory.md R57 and R64: BUSY is cleared, and LASTOP written, after every line action. That the completion is an engine
step of its own, which leaves no event and moves no line, is the model's reading (log 2). -/
def Obligations.CompletionFollowsEveryLineAction : Prop :=
  ∀ s t : State, step s = .next t → s.busy = true → t.busy = false → ¬ resetNext s →
    engineNext s ∧ t.trace = s.trace ∧ t.lineClk = s.lineClk ∧ t.lineData = s.lineData
      ∧ ∃ i, s.cur = some i ∧ t.lastop = i.opcode

/-- With BUSY = 0 and nothing waiting the block holds its lines and does nothing (60_exceptions.md R195). -/
def Obligations.IdleBlockHoldsStill : Prop :=
  ∀ s : State, s.busy = false → s.inputs = [] → step s = .next s

/-- Refinement: a host that writes a command's word to CMD and lets the engine run reaches, in at most 565 steps (the
write, 562 micro-operations, CHECK, completion), exactly the state exec gives, whatever the peer answers.
(CHECK and completion as steps of their own are the model's reading, log 2.) -/
def Obligations.WrittenCommandRunsToExec : Prop :=
  ∀ (i : Instr) (s t : State), i.wellFormed = true → s.busy = false → s.phase = .idle → s.inputs = [] →
    exec i s = .next t →
    ∃ n, n ≤ 565 ∧ stepsTo n { s with inputs := [.write 0x0 4 (encode i)] } t

/-- 70_reset_and_hazards.md R209: whatever the peer answers, a command in progress ends, after at most 562
micro-operations. The bound of 564 steps counts CHECK and the completion as steps of their own, the model's reading
(log 2). -/
def Obligations.EveryCommandEnds : Prop :=
  ∀ s : State, Inv s → s.busy = true → s.inputs = [] →
    ∃ n t, n ≤ 564 ∧ stepsTo n s t ∧ t.busy = false ∧ t.trace.length ≤ s.trace.length + 562

/-! ### Reset and invariants -/

/-- 70_reset_and_hazards.md R200: power-on (State.reset) and the reset input, at any time (R202), give every piece of
state its reset value; the parameters of 00_scope.md R5 are not changed by it. (The acknowledge sample `a` is not in the
table of R200 and not in this statement: its value is the model's choice, log 9.) -/
def Obligations.ResetGivesEveryValue : Prop :=
  (∀ s : State, resetNext s → ∃ t, step s = .next t ∧ t.bounds = s.bounds)
  ∧ (∀ t : State, (t = State.reset ∨ ∃ s, resetNext s ∧ step s = .next t) →
    t.lineClk = .floating ∧ t.lineData = .floating ∧ t.cur = none ∧ t.upc = 0 ∧ t.sr = 0x0000#16 ∧ t.txb = 0x00#8
      ∧ t.att = .first ∧ t.rv = 0xFFFF#16 ∧ t.rf = false ∧ t.phase = .idle ∧ t.sess = false ∧ t.err = false
      ∧ t.ack = false ∧ t.rxdata = 0xFFFF#16 ∧ t.failed = false ∧ t.valid = false ∧ t.attempts = 0#2 ∧ t.lastop = 0#4
      ∧ t.busy = false ∧ statusWord t = 0x00000000#32 ∧ rxdataWord t = 0x0000FFFF#32 ∧ t.trace = [])

/-- 70_reset_and_hazards.md R201: after reset the block waits; the first command that is not refused is a START or a
READREG. -/
def Obligations.FirstCommandAfterReset : Prop :=
  step State.reset = .next State.reset
  ∧ ∀ i : Instr, i.wellFormed = true → ((∃ t, exec i State.reset = .next t) ↔ i = .start ∨ i.opcode = 0x6#4)

/-- The invariant holds at reset. -/
def Obligations.InvariantHoldsAtReset : Prop := Inv State.reset

/-- 10_state.md R20, R30, R31, R38, R39: every step, of whatever agent, from every state that meets the invariant, keeps
it. -/
def Obligations.StepKeepsTheInvariant : Prop :=
  ∀ s t : State, Inv s → step s = .next t → Inv t

/-- 60_exceptions.md R180, R187: from a state that meets the invariant the machine neither faults nor stops. -/
def Obligations.MachineNeverStops : Prop :=
  ∀ s : State, Inv s → ∃ t, step s = .next t

/-! ### What stands outside the block, and its parameters -/

/-- The reset input takes itself from the inputs and leaves the rest of the world outside the block, and the run's refusal
mark, as they were: the model's choice (log 16). -/
def Obligations.ResetLeavesTheWorldOutside : Prop :=
  ∀ (s : State) (rest : List Input), s.inputs = .reset :: rest →
    ∃ t, step s = .next t ∧ t.inputs = rest ∧ t.peer = s.peer ∧ t.draws = s.draws ∧ t.busyDraws = s.busyDraws
      ∧ t.reads = s.reads ∧ t.refusals = s.refusals

/-- 00_scope.md R5, "None is writable at run time": no command, micro-operation, host access or reset changes the parameters
of an instance, from whatever state. (That the three bounds stand in State, so that every statement holds of every
instance, is the model's choice, log 10.) -/
def Obligations.ParametersAreFixed : Prop :=
  (∀ s t : State, step s = .next t → t.bounds = s.bounds)
  ∧ (∀ (i : Instr) (s t : State), exec i s = .next t → t.bounds = s.bounds)
end

