-- ==== Sys2Proof/Laws/State.lean ====
section
/-! SUPPORT. What each named update of State does to each field: one lemma a field, true by rfl, so that no later proof
unfolds a record update. -/

namespace Sys2Proof.Machine

/-! ### log -/

@[simp] theorem log_bounds (s : State) (e : Event) : (s.log e).bounds = s.bounds := rfl
@[simp] theorem log_lineClk (s : State) (e : Event) : (s.log e).lineClk = s.lineClk := rfl
@[simp] theorem log_lineData (s : State) (e : Event) : (s.log e).lineData = s.lineData := rfl
@[simp] theorem log_cur (s : State) (e : Event) : (s.log e).cur = s.cur := rfl
@[simp] theorem log_upc (s : State) (e : Event) : (s.log e).upc = s.upc := rfl
@[simp] theorem log_sr (s : State) (e : Event) : (s.log e).sr = s.sr := rfl
@[simp] theorem log_txb (s : State) (e : Event) : (s.log e).txb = s.txb := rfl
@[simp] theorem log_ackSample (s : State) (e : Event) : (s.log e).ackSample = s.ackSample := rfl
@[simp] theorem log_att (s : State) (e : Event) : (s.log e).att = s.att := rfl
@[simp] theorem log_rv (s : State) (e : Event) : (s.log e).rv = s.rv := rfl
@[simp] theorem log_rf (s : State) (e : Event) : (s.log e).rf = s.rf := rfl
@[simp] theorem log_phase (s : State) (e : Event) : (s.log e).phase = s.phase := rfl
@[simp] theorem log_sess (s : State) (e : Event) : (s.log e).sess = s.sess := rfl
@[simp] theorem log_err (s : State) (e : Event) : (s.log e).err = s.err := rfl
@[simp] theorem log_ack (s : State) (e : Event) : (s.log e).ack = s.ack := rfl
@[simp] theorem log_rxdata (s : State) (e : Event) : (s.log e).rxdata = s.rxdata := rfl
@[simp] theorem log_failed (s : State) (e : Event) : (s.log e).failed = s.failed := rfl
@[simp] theorem log_valid (s : State) (e : Event) : (s.log e).valid = s.valid := rfl
@[simp] theorem log_attempts (s : State) (e : Event) : (s.log e).attempts = s.attempts := rfl
@[simp] theorem log_lastop (s : State) (e : Event) : (s.log e).lastop = s.lastop := rfl
@[simp] theorem log_busy (s : State) (e : Event) : (s.log e).busy = s.busy := rfl
@[simp] theorem log_trace (s : State) (e : Event) : (s.log e).trace = s.trace ++ [e] := rfl
@[simp] theorem log_peer (s : State) (e : Event) : (s.log e).peer = s.peer := rfl
@[simp] theorem log_draws (s : State) (e : Event) : (s.log e).draws = s.draws := rfl
@[simp] theorem log_busyDraws (s : State) (e : Event) : (s.log e).busyDraws = s.busyDraws := rfl
@[simp] theorem log_inputs (s : State) (e : Event) : (s.log e).inputs = s.inputs := rfl
@[simp] theorem log_reads (s : State) (e : Event) : (s.log e).reads = s.reads := rfl
@[simp] theorem log_refusals (s : State) (e : Event) : (s.log e).refusals = s.refusals := rfl

/-! ### issue -/

@[simp] theorem issue_bounds (s : State) (i : Instr) : (s.issue i).bounds = s.bounds := rfl
@[simp] theorem issue_lineClk (s : State) (i : Instr) : (s.issue i).lineClk = s.lineClk := rfl
@[simp] theorem issue_lineData (s : State) (i : Instr) : (s.issue i).lineData = s.lineData := rfl
@[simp] theorem issue_cur (s : State) (i : Instr) : (s.issue i).cur = some i := rfl
@[simp] theorem issue_upc (s : State) (i : Instr) : (s.issue i).upc = 0 := rfl
@[simp] theorem issue_sr (s : State) (i : Instr) : (s.issue i).sr = s.sr := rfl
@[simp] theorem issue_txb (s : State) (i : Instr) : (s.issue i).txb = s.txb := rfl
@[simp] theorem issue_ackSample (s : State) (i : Instr) : (s.issue i).ackSample = s.ackSample := rfl
@[simp] theorem issue_att (s : State) (i : Instr) : (s.issue i).att = s.att := rfl
@[simp] theorem issue_rv (s : State) (i : Instr) : (s.issue i).rv = s.rv := rfl
@[simp] theorem issue_rf (s : State) (i : Instr) : (s.issue i).rf = s.rf := rfl
@[simp] theorem issue_phase (s : State) (i : Instr) : (s.issue i).phase = s.phase := rfl
@[simp] theorem issue_sess (s : State) (i : Instr) : (s.issue i).sess = s.sess := rfl
@[simp] theorem issue_err (s : State) (i : Instr) : (s.issue i).err = s.err := rfl
@[simp] theorem issue_ack (s : State) (i : Instr) : (s.issue i).ack = s.ack := rfl
@[simp] theorem issue_rxdata (s : State) (i : Instr) : (s.issue i).rxdata = s.rxdata := rfl
@[simp] theorem issue_failed (s : State) (i : Instr) : (s.issue i).failed = s.failed := rfl
@[simp] theorem issue_valid (s : State) (i : Instr) : (s.issue i).valid = s.valid := rfl
@[simp] theorem issue_attempts (s : State) (i : Instr) : (s.issue i).attempts = s.attempts := rfl
@[simp] theorem issue_lastop (s : State) (i : Instr) : (s.issue i).lastop = s.lastop := rfl
@[simp] theorem issue_busy (s : State) (i : Instr) : (s.issue i).busy = true := rfl
@[simp] theorem issue_trace (s : State) (i : Instr) : (s.issue i).trace = s.trace := rfl
@[simp] theorem issue_peer (s : State) (i : Instr) : (s.issue i).peer = s.peer := rfl
@[simp] theorem issue_draws (s : State) (i : Instr) : (s.issue i).draws = s.draws := rfl
@[simp] theorem issue_busyDraws (s : State) (i : Instr) : (s.issue i).busyDraws = s.busyDraws := rfl
@[simp] theorem issue_inputs (s : State) (i : Instr) : (s.issue i).inputs = s.inputs := rfl
@[simp] theorem issue_reads (s : State) (i : Instr) : (s.issue i).reads = s.reads := rfl
@[simp] theorem issue_refusals (s : State) (i : Instr) : (s.issue i).refusals = s.refusals := rfl

/-! ### refuse -/

@[simp] theorem refuse_bounds (s : State) (r : RefuseReason) : (s.refuse r).bounds = s.bounds := rfl
@[simp] theorem refuse_lineClk (s : State) (r : RefuseReason) : (s.refuse r).lineClk = s.lineClk := rfl
@[simp] theorem refuse_lineData (s : State) (r : RefuseReason) : (s.refuse r).lineData = s.lineData := rfl
@[simp] theorem refuse_cur (s : State) (r : RefuseReason) : (s.refuse r).cur = s.cur := rfl
@[simp] theorem refuse_upc (s : State) (r : RefuseReason) : (s.refuse r).upc = s.upc := rfl
@[simp] theorem refuse_sr (s : State) (r : RefuseReason) : (s.refuse r).sr = s.sr := rfl
@[simp] theorem refuse_txb (s : State) (r : RefuseReason) : (s.refuse r).txb = s.txb := rfl
@[simp] theorem refuse_ackSample (s : State) (r : RefuseReason) : (s.refuse r).ackSample = s.ackSample := rfl
@[simp] theorem refuse_att (s : State) (r : RefuseReason) : (s.refuse r).att = s.att := rfl
@[simp] theorem refuse_rv (s : State) (r : RefuseReason) : (s.refuse r).rv = s.rv := rfl
@[simp] theorem refuse_rf (s : State) (r : RefuseReason) : (s.refuse r).rf = s.rf := rfl
@[simp] theorem refuse_phase (s : State) (r : RefuseReason) : (s.refuse r).phase = s.phase := rfl
@[simp] theorem refuse_sess (s : State) (r : RefuseReason) : (s.refuse r).sess = s.sess := rfl
@[simp] theorem refuse_err (s : State) (r : RefuseReason) : (s.refuse r).err = s.err := rfl
@[simp] theorem refuse_ack (s : State) (r : RefuseReason) : (s.refuse r).ack = s.ack := rfl
@[simp] theorem refuse_rxdata (s : State) (r : RefuseReason) : (s.refuse r).rxdata = s.rxdata := rfl
@[simp] theorem refuse_failed (s : State) (r : RefuseReason) : (s.refuse r).failed = s.failed := rfl
@[simp] theorem refuse_valid (s : State) (r : RefuseReason) : (s.refuse r).valid = s.valid := rfl
@[simp] theorem refuse_attempts (s : State) (r : RefuseReason) : (s.refuse r).attempts = s.attempts := rfl
@[simp] theorem refuse_lastop (s : State) (r : RefuseReason) : (s.refuse r).lastop = s.lastop := rfl
@[simp] theorem refuse_busy (s : State) (r : RefuseReason) : (s.refuse r).busy = s.busy := rfl
@[simp] theorem refuse_trace (s : State) (r : RefuseReason) : (s.refuse r).trace = s.trace := rfl
@[simp] theorem refuse_peer (s : State) (r : RefuseReason) : (s.refuse r).peer = s.peer := rfl
@[simp] theorem refuse_draws (s : State) (r : RefuseReason) : (s.refuse r).draws = s.draws := rfl
@[simp] theorem refuse_busyDraws (s : State) (r : RefuseReason) : (s.refuse r).busyDraws = s.busyDraws := rfl
@[simp] theorem refuse_inputs (s : State) (r : RefuseReason) : (s.refuse r).inputs = s.inputs := rfl
@[simp] theorem refuse_reads (s : State) (r : RefuseReason) : (s.refuse r).reads = s.reads := rfl
@[simp] theorem refuse_refusals (s : State) (r : RefuseReason) : (s.refuse r).refusals = s.refusals ++ [r] := rfl

/-! ### returned -/

@[simp] theorem returned_bounds (s : State) (v : Word) : (s.returned v).bounds = s.bounds := rfl
@[simp] theorem returned_lineClk (s : State) (v : Word) : (s.returned v).lineClk = s.lineClk := rfl
@[simp] theorem returned_lineData (s : State) (v : Word) : (s.returned v).lineData = s.lineData := rfl
@[simp] theorem returned_cur (s : State) (v : Word) : (s.returned v).cur = s.cur := rfl
@[simp] theorem returned_upc (s : State) (v : Word) : (s.returned v).upc = s.upc := rfl
@[simp] theorem returned_sr (s : State) (v : Word) : (s.returned v).sr = s.sr := rfl
@[simp] theorem returned_txb (s : State) (v : Word) : (s.returned v).txb = s.txb := rfl
@[simp] theorem returned_ackSample (s : State) (v : Word) : (s.returned v).ackSample = s.ackSample := rfl
@[simp] theorem returned_att (s : State) (v : Word) : (s.returned v).att = s.att := rfl
@[simp] theorem returned_rv (s : State) (v : Word) : (s.returned v).rv = s.rv := rfl
@[simp] theorem returned_rf (s : State) (v : Word) : (s.returned v).rf = s.rf := rfl
@[simp] theorem returned_phase (s : State) (v : Word) : (s.returned v).phase = s.phase := rfl
@[simp] theorem returned_sess (s : State) (v : Word) : (s.returned v).sess = s.sess := rfl
@[simp] theorem returned_err (s : State) (v : Word) : (s.returned v).err = s.err := rfl
@[simp] theorem returned_ack (s : State) (v : Word) : (s.returned v).ack = s.ack := rfl
@[simp] theorem returned_rxdata (s : State) (v : Word) : (s.returned v).rxdata = s.rxdata := rfl
@[simp] theorem returned_failed (s : State) (v : Word) : (s.returned v).failed = s.failed := rfl
@[simp] theorem returned_valid (s : State) (v : Word) : (s.returned v).valid = s.valid := rfl
@[simp] theorem returned_attempts (s : State) (v : Word) : (s.returned v).attempts = s.attempts := rfl
@[simp] theorem returned_lastop (s : State) (v : Word) : (s.returned v).lastop = s.lastop := rfl
@[simp] theorem returned_busy (s : State) (v : Word) : (s.returned v).busy = s.busy := rfl
@[simp] theorem returned_trace (s : State) (v : Word) : (s.returned v).trace = s.trace := rfl
@[simp] theorem returned_peer (s : State) (v : Word) : (s.returned v).peer = s.peer := rfl
@[simp] theorem returned_draws (s : State) (v : Word) : (s.returned v).draws = s.draws := rfl
@[simp] theorem returned_busyDraws (s : State) (v : Word) : (s.returned v).busyDraws = s.busyDraws := rfl
@[simp] theorem returned_inputs (s : State) (v : Word) : (s.returned v).inputs = s.inputs := rfl
@[simp] theorem returned_reads (s : State) (v : Word) : (s.returned v).reads = s.reads ++ [v] := rfl
@[simp] theorem returned_refusals (s : State) (v : Word) : (s.returned v).refusals = s.refusals := rfl

/-! ### complete -/

@[simp] theorem complete_bounds (op : BitVec 4) (s : State) : (complete op s).bounds = s.bounds := rfl
@[simp] theorem complete_lineClk (op : BitVec 4) (s : State) : (complete op s).lineClk = s.lineClk := rfl
@[simp] theorem complete_lineData (op : BitVec 4) (s : State) : (complete op s).lineData = s.lineData := rfl
@[simp] theorem complete_cur (op : BitVec 4) (s : State) : (complete op s).cur = s.cur := rfl
@[simp] theorem complete_upc (op : BitVec 4) (s : State) : (complete op s).upc = s.upc := rfl
@[simp] theorem complete_sr (op : BitVec 4) (s : State) : (complete op s).sr = s.sr := rfl
@[simp] theorem complete_txb (op : BitVec 4) (s : State) : (complete op s).txb = s.txb := rfl
@[simp] theorem complete_ackSample (op : BitVec 4) (s : State) : (complete op s).ackSample = s.ackSample := rfl
@[simp] theorem complete_att (op : BitVec 4) (s : State) : (complete op s).att = s.att := rfl
@[simp] theorem complete_rv (op : BitVec 4) (s : State) : (complete op s).rv = s.rv := rfl
@[simp] theorem complete_rf (op : BitVec 4) (s : State) : (complete op s).rf = s.rf := rfl
@[simp] theorem complete_phase (op : BitVec 4) (s : State) : (complete op s).phase = s.phase := rfl
@[simp] theorem complete_sess (op : BitVec 4) (s : State) : (complete op s).sess = s.sess := rfl
@[simp] theorem complete_err (op : BitVec 4) (s : State) : (complete op s).err = s.err := rfl
@[simp] theorem complete_ack (op : BitVec 4) (s : State) : (complete op s).ack = s.ack := rfl
@[simp] theorem complete_rxdata (op : BitVec 4) (s : State) : (complete op s).rxdata = s.rxdata := rfl
@[simp] theorem complete_failed (op : BitVec 4) (s : State) : (complete op s).failed = s.failed := rfl
@[simp] theorem complete_valid (op : BitVec 4) (s : State) : (complete op s).valid = s.valid := rfl
@[simp] theorem complete_attempts (op : BitVec 4) (s : State) : (complete op s).attempts = s.attempts := rfl
@[simp] theorem complete_lastop (op : BitVec 4) (s : State) : (complete op s).lastop = op := rfl
@[simp] theorem complete_busy (op : BitVec 4) (s : State) : (complete op s).busy = false := rfl
@[simp] theorem complete_trace (op : BitVec 4) (s : State) : (complete op s).trace = s.trace := rfl
@[simp] theorem complete_peer (op : BitVec 4) (s : State) : (complete op s).peer = s.peer := rfl
@[simp] theorem complete_draws (op : BitVec 4) (s : State) : (complete op s).draws = s.draws := rfl
@[simp] theorem complete_busyDraws (op : BitVec 4) (s : State) : (complete op s).busyDraws = s.busyDraws := rfl
@[simp] theorem complete_inputs (op : BitVec 4) (s : State) : (complete op s).inputs = s.inputs := rfl
@[simp] theorem complete_reads (op : BitVec 4) (s : State) : (complete op s).reads = s.reads := rfl
@[simp] theorem complete_refusals (op : BitVec 4) (s : State) : (complete op s).refusals = s.refusals := rfl

/-! ### openSession -/

@[simp] theorem openSession_bounds (s : State) : (openSession s).bounds = s.bounds := rfl
@[simp] theorem openSession_lineClk (s : State) : (openSession s).lineClk = s.lineClk := rfl
@[simp] theorem openSession_lineData (s : State) : (openSession s).lineData = s.lineData := rfl
@[simp] theorem openSession_cur (s : State) : (openSession s).cur = s.cur := rfl
@[simp] theorem openSession_upc (s : State) : (openSession s).upc = s.upc := rfl
@[simp] theorem openSession_sr (s : State) : (openSession s).sr = s.sr := rfl
@[simp] theorem openSession_txb (s : State) : (openSession s).txb = s.txb := rfl
@[simp] theorem openSession_ackSample (s : State) : (openSession s).ackSample = s.ackSample := rfl
@[simp] theorem openSession_att (s : State) : (openSession s).att = s.att := rfl
@[simp] theorem openSession_rv (s : State) : (openSession s).rv = s.rv := rfl
@[simp] theorem openSession_rf (s : State) : (openSession s).rf = s.rf := rfl
@[simp] theorem openSession_phase (s : State) : (openSession s).phase = s.phase := rfl
@[simp] theorem openSession_sess (s : State) : (openSession s).sess = true := rfl
@[simp] theorem openSession_err (s : State) : (openSession s).err = false := rfl
@[simp] theorem openSession_ack (s : State) : (openSession s).ack = s.ack := rfl
@[simp] theorem openSession_rxdata (s : State) : (openSession s).rxdata = s.rxdata := rfl
@[simp] theorem openSession_failed (s : State) : (openSession s).failed = s.failed := rfl
@[simp] theorem openSession_valid (s : State) : (openSession s).valid = s.valid := rfl
@[simp] theorem openSession_attempts (s : State) : (openSession s).attempts = s.attempts := rfl
@[simp] theorem openSession_lastop (s : State) : (openSession s).lastop = s.lastop := rfl
@[simp] theorem openSession_busy (s : State) : (openSession s).busy = s.busy := rfl
@[simp] theorem openSession_trace (s : State) : (openSession s).trace = s.trace := rfl
@[simp] theorem openSession_peer (s : State) : (openSession s).peer = s.peer := rfl
@[simp] theorem openSession_draws (s : State) : (openSession s).draws = s.draws := rfl
@[simp] theorem openSession_busyDraws (s : State) : (openSession s).busyDraws = s.busyDraws := rfl
@[simp] theorem openSession_inputs (s : State) : (openSession s).inputs = s.inputs := rfl
@[simp] theorem openSession_reads (s : State) : (openSession s).reads = s.reads := rfl
@[simp] theorem openSession_refusals (s : State) : (openSession s).refusals = s.refusals := rfl

/-! ### closeSession -/

@[simp] theorem closeSession_bounds (s : State) : (closeSession s).bounds = s.bounds := rfl
@[simp] theorem closeSession_lineClk (s : State) : (closeSession s).lineClk = s.lineClk := rfl
@[simp] theorem closeSession_lineData (s : State) : (closeSession s).lineData = s.lineData := rfl
@[simp] theorem closeSession_cur (s : State) : (closeSession s).cur = s.cur := rfl
@[simp] theorem closeSession_upc (s : State) : (closeSession s).upc = s.upc := rfl
@[simp] theorem closeSession_sr (s : State) : (closeSession s).sr = s.sr := rfl
@[simp] theorem closeSession_txb (s : State) : (closeSession s).txb = s.txb := rfl
@[simp] theorem closeSession_ackSample (s : State) : (closeSession s).ackSample = s.ackSample := rfl
@[simp] theorem closeSession_att (s : State) : (closeSession s).att = s.att := rfl
@[simp] theorem closeSession_rv (s : State) : (closeSession s).rv = s.rv := rfl
@[simp] theorem closeSession_rf (s : State) : (closeSession s).rf = s.rf := rfl
@[simp] theorem closeSession_phase (s : State) : (closeSession s).phase = s.phase := rfl
@[simp] theorem closeSession_sess (s : State) : (closeSession s).sess = false := rfl
@[simp] theorem closeSession_err (s : State) : (closeSession s).err = s.err := rfl
@[simp] theorem closeSession_ack (s : State) : (closeSession s).ack = s.ack := rfl
@[simp] theorem closeSession_rxdata (s : State) : (closeSession s).rxdata = s.rxdata := rfl
@[simp] theorem closeSession_failed (s : State) : (closeSession s).failed = s.failed := rfl
@[simp] theorem closeSession_valid (s : State) : (closeSession s).valid = s.valid := rfl
@[simp] theorem closeSession_attempts (s : State) : (closeSession s).attempts = s.attempts := rfl
@[simp] theorem closeSession_lastop (s : State) : (closeSession s).lastop = s.lastop := rfl
@[simp] theorem closeSession_busy (s : State) : (closeSession s).busy = s.busy := rfl
@[simp] theorem closeSession_trace (s : State) : (closeSession s).trace = s.trace := rfl
@[simp] theorem closeSession_peer (s : State) : (closeSession s).peer = s.peer := rfl
@[simp] theorem closeSession_draws (s : State) : (closeSession s).draws = s.draws := rfl
@[simp] theorem closeSession_busyDraws (s : State) : (closeSession s).busyDraws = s.busyDraws := rfl
@[simp] theorem closeSession_inputs (s : State) : (closeSession s).inputs = s.inputs := rfl
@[simp] theorem closeSession_reads (s : State) : (closeSession s).reads = s.reads := rfl
@[simp] theorem closeSession_refusals (s : State) : (closeSession s).refusals = s.refusals := rfl

/-! ### ackResult -/

@[simp] theorem ackResult_bounds (s : State) : (ackResult s).bounds = s.bounds := rfl
@[simp] theorem ackResult_lineClk (s : State) : (ackResult s).lineClk = s.lineClk := rfl
@[simp] theorem ackResult_lineData (s : State) : (ackResult s).lineData = s.lineData := rfl
@[simp] theorem ackResult_cur (s : State) : (ackResult s).cur = s.cur := rfl
@[simp] theorem ackResult_upc (s : State) : (ackResult s).upc = s.upc := rfl
@[simp] theorem ackResult_sr (s : State) : (ackResult s).sr = s.sr := rfl
@[simp] theorem ackResult_txb (s : State) : (ackResult s).txb = s.txb := rfl
@[simp] theorem ackResult_ackSample (s : State) : (ackResult s).ackSample = s.ackSample := rfl
@[simp] theorem ackResult_att (s : State) : (ackResult s).att = s.att := rfl
@[simp] theorem ackResult_rv (s : State) : (ackResult s).rv = s.rv := rfl
@[simp] theorem ackResult_rf (s : State) : (ackResult s).rf = s.rf := rfl
@[simp] theorem ackResult_phase (s : State) : (ackResult s).phase = s.phase := rfl
@[simp] theorem ackResult_sess (s : State) : (ackResult s).sess = s.sess := rfl
@[simp] theorem ackResult_err (s : State) : (ackResult s).err = (s.err || s.ackSample) := rfl
@[simp] theorem ackResult_ack (s : State) : (ackResult s).ack = !s.ackSample := rfl
@[simp] theorem ackResult_rxdata (s : State) : (ackResult s).rxdata = s.rxdata := rfl
@[simp] theorem ackResult_failed (s : State) : (ackResult s).failed = s.failed := rfl
@[simp] theorem ackResult_valid (s : State) : (ackResult s).valid = s.valid := rfl
@[simp] theorem ackResult_attempts (s : State) : (ackResult s).attempts = s.attempts := rfl
@[simp] theorem ackResult_lastop (s : State) : (ackResult s).lastop = s.lastop := rfl
@[simp] theorem ackResult_busy (s : State) : (ackResult s).busy = s.busy := rfl
@[simp] theorem ackResult_trace (s : State) : (ackResult s).trace = s.trace := rfl
@[simp] theorem ackResult_peer (s : State) : (ackResult s).peer = s.peer := rfl
@[simp] theorem ackResult_draws (s : State) : (ackResult s).draws = s.draws := rfl
@[simp] theorem ackResult_busyDraws (s : State) : (ackResult s).busyDraws = s.busyDraws := rfl
@[simp] theorem ackResult_inputs (s : State) : (ackResult s).inputs = s.inputs := rfl
@[simp] theorem ackResult_reads (s : State) : (ackResult s).reads = s.reads := rfl
@[simp] theorem ackResult_refusals (s : State) : (ackResult s).refusals = s.refusals := rfl

/-! ### beginReadreg -/

@[simp] theorem beginReadreg_bounds (s : State) : (beginReadreg s).bounds = s.bounds := rfl
@[simp] theorem beginReadreg_lineClk (s : State) : (beginReadreg s).lineClk = s.lineClk := rfl
@[simp] theorem beginReadreg_lineData (s : State) : (beginReadreg s).lineData = s.lineData := rfl
@[simp] theorem beginReadreg_cur (s : State) : (beginReadreg s).cur = s.cur := rfl
@[simp] theorem beginReadreg_upc (s : State) : (beginReadreg s).upc = s.upc := rfl
@[simp] theorem beginReadreg_sr (s : State) : (beginReadreg s).sr = s.sr := rfl
@[simp] theorem beginReadreg_txb (s : State) : (beginReadreg s).txb = s.txb := rfl
@[simp] theorem beginReadreg_ackSample (s : State) : (beginReadreg s).ackSample = s.ackSample := rfl
@[simp] theorem beginReadreg_att (s : State) : (beginReadreg s).att = .first := rfl
@[simp] theorem beginReadreg_rv (s : State) : (beginReadreg s).rv = s.rv := rfl
@[simp] theorem beginReadreg_rf (s : State) : (beginReadreg s).rf = s.rf := rfl
@[simp] theorem beginReadreg_phase (s : State) : (beginReadreg s).phase = .run1 := rfl
@[simp] theorem beginReadreg_sess (s : State) : (beginReadreg s).sess = s.sess := rfl
@[simp] theorem beginReadreg_err (s : State) : (beginReadreg s).err = s.err := rfl
@[simp] theorem beginReadreg_ack (s : State) : (beginReadreg s).ack = s.ack := rfl
@[simp] theorem beginReadreg_rxdata (s : State) : (beginReadreg s).rxdata = s.rxdata := rfl
@[simp] theorem beginReadreg_failed (s : State) : (beginReadreg s).failed = s.failed := rfl
@[simp] theorem beginReadreg_valid (s : State) : (beginReadreg s).valid = s.valid := rfl
@[simp] theorem beginReadreg_attempts (s : State) : (beginReadreg s).attempts = s.attempts := rfl
@[simp] theorem beginReadreg_lastop (s : State) : (beginReadreg s).lastop = s.lastop := rfl
@[simp] theorem beginReadreg_busy (s : State) : (beginReadreg s).busy = s.busy := rfl
@[simp] theorem beginReadreg_trace (s : State) : (beginReadreg s).trace = s.trace := rfl
@[simp] theorem beginReadreg_peer (s : State) : (beginReadreg s).peer = s.peer := rfl
@[simp] theorem beginReadreg_draws (s : State) : (beginReadreg s).draws = s.draws := rfl
@[simp] theorem beginReadreg_busyDraws (s : State) : (beginReadreg s).busyDraws = s.busyDraws := rfl
@[simp] theorem beginReadreg_inputs (s : State) : (beginReadreg s).inputs = s.inputs := rfl
@[simp] theorem beginReadreg_reads (s : State) : (beginReadreg s).reads = s.reads := rfl
@[simp] theorem beginReadreg_refusals (s : State) : (beginReadreg s).refusals = s.refusals := rfl

/-! ### attemptResult -/

@[simp] theorem attemptResult_bounds (s : State) : (attemptResult s).bounds = s.bounds := rfl
@[simp] theorem attemptResult_lineClk (s : State) : (attemptResult s).lineClk = s.lineClk := rfl
@[simp] theorem attemptResult_lineData (s : State) : (attemptResult s).lineData = s.lineData := rfl
@[simp] theorem attemptResult_cur (s : State) : (attemptResult s).cur = s.cur := rfl
@[simp] theorem attemptResult_upc (s : State) : (attemptResult s).upc = s.upc := rfl
@[simp] theorem attemptResult_sr (s : State) : (attemptResult s).sr = s.sr := rfl
@[simp] theorem attemptResult_txb (s : State) : (attemptResult s).txb = s.txb := rfl
@[simp] theorem attemptResult_ackSample (s : State) : (attemptResult s).ackSample = s.ackSample := rfl
@[simp] theorem attemptResult_att (s : State) : (attemptResult s).att = s.att := rfl
@[simp] theorem attemptResult_rv (s : State) : (attemptResult s).rv = s.sr := rfl
@[simp] theorem attemptResult_rf (s : State) : (attemptResult s).rf = s.err := rfl
@[simp] theorem attemptResult_phase (s : State) : (attemptResult s).phase = phaseAfterAttempt s.att := rfl
@[simp] theorem attemptResult_sess (s : State) : (attemptResult s).sess = s.sess := rfl
@[simp] theorem attemptResult_err (s : State) : (attemptResult s).err = s.err := rfl
@[simp] theorem attemptResult_ack (s : State) : (attemptResult s).ack = s.ack := rfl
@[simp] theorem attemptResult_rxdata (s : State) : (attemptResult s).rxdata = s.rxdata := rfl
@[simp] theorem attemptResult_failed (s : State) : (attemptResult s).failed = s.failed := rfl
@[simp] theorem attemptResult_valid (s : State) : (attemptResult s).valid = s.valid := rfl
@[simp] theorem attemptResult_attempts (s : State) : (attemptResult s).attempts = s.attempts := rfl
@[simp] theorem attemptResult_lastop (s : State) : (attemptResult s).lastop = s.lastop := rfl
@[simp] theorem attemptResult_busy (s : State) : (attemptResult s).busy = s.busy := rfl
@[simp] theorem attemptResult_trace (s : State) : (attemptResult s).trace = s.trace := rfl
@[simp] theorem attemptResult_peer (s : State) : (attemptResult s).peer = s.peer := rfl
@[simp] theorem attemptResult_draws (s : State) : (attemptResult s).draws = s.draws := rfl
@[simp] theorem attemptResult_busyDraws (s : State) : (attemptResult s).busyDraws = s.busyDraws := rfl
@[simp] theorem attemptResult_inputs (s : State) : (attemptResult s).inputs = s.inputs := rfl
@[simp] theorem attemptResult_reads (s : State) : (attemptResult s).reads = s.reads := rfl
@[simp] theorem attemptResult_refusals (s : State) : (attemptResult s).refusals = s.refusals := rfl

/-! ### afterSamples -/

@[simp] theorem afterSamples_bounds (n : Nat) (s : State) : (afterSamples n s).bounds = s.bounds := rfl
@[simp] theorem afterSamples_lineClk (n : Nat) (s : State) : (afterSamples n s).lineClk = s.lineClk := rfl
@[simp] theorem afterSamples_lineData (n : Nat) (s : State) : (afterSamples n s).lineData = s.lineData := rfl
@[simp] theorem afterSamples_cur (n : Nat) (s : State) : (afterSamples n s).cur = s.cur := rfl
@[simp] theorem afterSamples_upc (n : Nat) (s : State) : (afterSamples n s).upc = s.upc := rfl
@[simp] theorem afterSamples_sr (n : Nat) (s : State) : (afterSamples n s).sr = s.sr := rfl
@[simp] theorem afterSamples_txb (n : Nat) (s : State) : (afterSamples n s).txb = s.txb := rfl
@[simp] theorem afterSamples_ackSample (n : Nat) (s : State) : (afterSamples n s).ackSample = s.ackSample := rfl
@[simp] theorem afterSamples_att (n : Nat) (s : State) : (afterSamples n s).att = s.att := rfl
@[simp] theorem afterSamples_rv (n : Nat) (s : State) : (afterSamples n s).rv = s.rv := rfl
@[simp] theorem afterSamples_rf (n : Nat) (s : State) : (afterSamples n s).rf = s.rf := rfl
@[simp] theorem afterSamples_phase (n : Nat) (s : State) : (afterSamples n s).phase = s.phase := rfl
@[simp] theorem afterSamples_sess (n : Nat) (s : State) : (afterSamples n s).sess = s.sess := rfl
@[simp] theorem afterSamples_err (n : Nat) (s : State) : (afterSamples n s).err = s.err := rfl
@[simp] theorem afterSamples_ack (n : Nat) (s : State) : (afterSamples n s).ack = s.ack := rfl
@[simp] theorem afterSamples_rxdata (n : Nat) (s : State) : (afterSamples n s).rxdata = s.rxdata := rfl
@[simp] theorem afterSamples_failed (n : Nat) (s : State) : (afterSamples n s).failed = s.failed := rfl
@[simp] theorem afterSamples_valid (n : Nat) (s : State) : (afterSamples n s).valid = s.valid := rfl
@[simp] theorem afterSamples_attempts (n : Nat) (s : State) : (afterSamples n s).attempts = s.attempts := rfl
@[simp] theorem afterSamples_lastop (n : Nat) (s : State) : (afterSamples n s).lastop = s.lastop := rfl
@[simp] theorem afterSamples_busy (n : Nat) (s : State) : (afterSamples n s).busy = s.busy := rfl
@[simp] theorem afterSamples_trace (n : Nat) (s : State) : (afterSamples n s).trace = s.trace := rfl
@[simp] theorem afterSamples_peer (n : Nat) (s : State) : (afterSamples n s).peer = s.peer.drop n := rfl
@[simp] theorem afterSamples_draws (n : Nat) (s : State) : (afterSamples n s).draws = drawsAfter n s.peer s.draws := rfl
@[simp] theorem afterSamples_busyDraws (n : Nat) (s : State) : (afterSamples n s).busyDraws = s.busyDraws := rfl
@[simp] theorem afterSamples_inputs (n : Nat) (s : State) : (afterSamples n s).inputs = s.inputs := rfl
@[simp] theorem afterSamples_reads (n : Nat) (s : State) : (afterSamples n s).reads = s.reads := rfl
@[simp] theorem afterSamples_refusals (n : Nat) (s : State) : (afterSamples n s).refusals = s.refusals := rfl

/-! ### applyReset -/

@[simp] theorem applyReset_bounds (s : State) : (s.applyReset).bounds = s.bounds := rfl
@[simp] theorem applyReset_lineClk (s : State) : (s.applyReset).lineClk = State.reset.lineClk := rfl
@[simp] theorem applyReset_lineData (s : State) : (s.applyReset).lineData = State.reset.lineData := rfl
@[simp] theorem applyReset_cur (s : State) : (s.applyReset).cur = State.reset.cur := rfl
@[simp] theorem applyReset_upc (s : State) : (s.applyReset).upc = State.reset.upc := rfl
@[simp] theorem applyReset_sr (s : State) : (s.applyReset).sr = State.reset.sr := rfl
@[simp] theorem applyReset_txb (s : State) : (s.applyReset).txb = State.reset.txb := rfl
@[simp] theorem applyReset_ackSample (s : State) : (s.applyReset).ackSample = State.reset.ackSample := rfl
@[simp] theorem applyReset_att (s : State) : (s.applyReset).att = State.reset.att := rfl
@[simp] theorem applyReset_rv (s : State) : (s.applyReset).rv = State.reset.rv := rfl
@[simp] theorem applyReset_rf (s : State) : (s.applyReset).rf = State.reset.rf := rfl
@[simp] theorem applyReset_phase (s : State) : (s.applyReset).phase = State.reset.phase := rfl
@[simp] theorem applyReset_sess (s : State) : (s.applyReset).sess = State.reset.sess := rfl
@[simp] theorem applyReset_err (s : State) : (s.applyReset).err = State.reset.err := rfl
@[simp] theorem applyReset_ack (s : State) : (s.applyReset).ack = State.reset.ack := rfl
@[simp] theorem applyReset_rxdata (s : State) : (s.applyReset).rxdata = State.reset.rxdata := rfl
@[simp] theorem applyReset_failed (s : State) : (s.applyReset).failed = State.reset.failed := rfl
@[simp] theorem applyReset_valid (s : State) : (s.applyReset).valid = State.reset.valid := rfl
@[simp] theorem applyReset_attempts (s : State) : (s.applyReset).attempts = State.reset.attempts := rfl
@[simp] theorem applyReset_lastop (s : State) : (s.applyReset).lastop = State.reset.lastop := rfl
@[simp] theorem applyReset_busy (s : State) : (s.applyReset).busy = State.reset.busy := rfl
@[simp] theorem applyReset_trace (s : State) : (s.applyReset).trace = State.reset.trace := rfl
@[simp] theorem applyReset_peer (s : State) : (s.applyReset).peer = s.peer := rfl
@[simp] theorem applyReset_draws (s : State) : (s.applyReset).draws = s.draws := rfl
@[simp] theorem applyReset_busyDraws (s : State) : (s.applyReset).busyDraws = s.busyDraws := rfl
@[simp] theorem applyReset_inputs (s : State) : (s.applyReset).inputs = s.inputs := rfl
@[simp] theorem applyReset_reads (s : State) : (s.applyReset).reads = s.reads := rfl
@[simp] theorem applyReset_refusals (s : State) : (s.applyReset).refusals = s.refusals := rfl

end Sys2Proof.Machine
end

