-- ==== Sys2Proof/Laws/Ops.lean ====
section
/-! SUPPORT. What each shared operation does, said once: the micro-operations, the micro-programs in closed form, issuing
a command, the host window, the operations that leave the block alone. Provers cite these and unfold nothing. -/

namespace Sys2Proof.Machine

/-! ### Micro-programs -/

@[simp] theorem runSteps_nil (s : State) : runSteps [] s = s := rfl

@[simp] theorem runSteps_cons (m : MicroStep) (p : List MicroStep) (s : State) :
    runSteps (m :: p) s = runSteps p (microStep s m) := rfl

theorem runSteps_append (p q : List MicroStep) (s : State) :
    runSteps (p ++ q) s = runSteps q (runSteps p s) := by
  simp [runSteps, List.foldl_append]

theorem plain_append (ms ms' : List Micro) : plain (ms ++ ms') = plain ms ++ plain ms' := by
  simp [plain]

/-- A register write at the end of a program that has a last step. -/
theorem endWith_concat (c : Latch) (p : List MicroStep) (m : MicroStep) :
    endWith c (p ++ [m]) = p ++ [{ m with after := m.after ++ [c] }] := by
  induction p with
  | nil => rfl
  | cons x xs ih =>
    cases xs with
    | nil => rfl
    | cons y ys => simpa [endWith] using ih

theorem endWith_ne_nil (c : Latch) (p : List MicroStep) (h : p ≠ []) : endWith c p ≠ [] := by
  rcases p.eq_nil_or_concat with rfl | ⟨q, m, rfl⟩
  · exact absurd rfl h
  · simp [endWith_concat]

/-- No register write touches `upc`. -/
@[simp] theorem runLatch_upc (s : State) (c : Latch) : (runLatch s c).upc = s.upc := by
  cases c <;> rfl

/-- A register write at the end of a program is made after all of it. -/
theorem runSteps_endWith (c : Latch) (p : List MicroStep) (h : p ≠ []) (s : State) :
    runSteps (endWith c p) s = runLatch (runSteps p s) c := by
  rcases p.eq_nil_or_concat' with rfl | ⟨q, m, rfl⟩
  · exact absurd rfl h
  · rw [endWith_concat]
    simp only [runSteps_append, runSteps_cons, runSteps_nil, microStep, List.foldl_append, List.foldl_cons,
      List.foldl_nil]
    cases c <;> rfl

/-! ### Bodies in closed form -/

/-- START's lines and trace (R100). -/
theorem runSteps_startBody (s : State) :
    runSteps startBody s =
      { s with lineClk := .drivenLow, lineData := .drivenLow, upc := s.upc + 5, trace := s.trace ++ startTrace } := by
  simp [startBody, plain, microStep, runMicro, waitQuanta, driveLowLine, State.setLine, State.log, startTrace]

/-- RSTART's lines and trace (R103). -/
theorem runSteps_rstartBody (s : State) :
    runSteps rstartBody s =
      { s with lineClk := .drivenLow, lineData := .drivenLow, upc := s.upc + 8, trace := s.trace ++ rstartTrace } := by
  simp [rstartBody, plain, microStep, runMicro, waitQuanta, driveLowLine, floatLine, State.setLine, State.log,
    rstartTrace]

/-- STOP's lines and trace (R105). -/
theorem runSteps_stopBody (s : State) :
    runSteps stopBody s =
      { s with lineClk := .floating, lineData := .floating, upc := s.upc + 6, trace := s.trace ++ stopTrace } := by
  simp [stopBody, plain, microStep, runMicro, waitQuanta, driveLowLine, floatLine, State.setLine, State.log, stopTrace]

/-- One data bit of SENDBYTE (R121). -/
theorem runSteps_sendBit (i : Nat) (s : State) :
    runSteps (plain (sendBit i)) s =
      { s with
        lineClk := .drivenLow
        lineData := driveOfBit (s.txb.getLsbD i)
        upc := s.upc + 6
        trace := s.trace ++ bitTrace (s.txb.getLsbD i) } := by
  cases h : s.txb.getLsbD i <;>
    simp [sendBit, clockPulse, plain, microStep, runMicro, h, waitQuanta, driveLowLine, floatLine, State.setLine,
      State.log, bitTrace, pulseTrace, driveOfBit]

/-- The acknowledge slot of SENDBYTE (R122). -/
theorem runSteps_ackSlot (s : State) :
    runSteps (plain ackSlot) s =
      { s with
        lineClk := .drivenLow
        lineData := .floating
        ackSample := nextSample s
        upc := s.upc + 8
        trace := s.trace ++ [.float .data, .wait 1, .float .clk, .wait 1, .sample .data (nextSample s), .wait 1,
          .driveLow .clk, .wait 1]
        peer := s.peer.drop 1
        draws := drawsAfter 1 s.peer s.draws } := by
  simp [ackSlot, plain, microStep, runMicro, sampleData, waitQuanta, driveLowLine, floatLine, State.setLine, State.log,
    nextSample]

theorem runSteps_beginWith (c : Latch) (p : List MicroStep) (h : p ≠ []) (s : State) :
    runSteps (beginWith c p) s = runSteps p (runLatch s c) := by
  cases p with
  | nil => exact absurd rfl h
  | cons m q => rfl

/-- SENDBYTE up to its completion (R120). -/
theorem runSteps_sendbyteBody (value : Byte) (s : State) :
    runSteps (sendbyteBody value) s =
      { s with
        lineClk := .drivenLow
        lineData := .floating
        txb := value
        ackSample := nextSample s
        upc := s.upc + 56
        trace := s.trace ++ sendbyteTrace value (nextSample s)
        peer := s.peer.drop 1
        draws := drawsAfter 1 s.peer s.draws } := by
  rw [sendbyteBody, runSteps_beginWith _ _ (by simp [plain, ackSlot])]
  simp only [bitsDown, List.flatMap_cons, List.flatMap_nil, plain_append, runSteps_append, runSteps_sendBit,
    runSteps_ackSlot, List.append_nil]
  simp [runLatch, sendbyteTrace, nextSample]

/-- One bit of READWORD (R131). -/
theorem runSteps_readBit (i : Nat) (s : State) :
    runSteps (plain (.sampleBit i :: clockPulse)) s =
      { s with
        lineClk := .drivenLow
        sr := putBit s.sr i (nextSample s)
        upc := s.upc + 5
        trace := s.trace ++ .sample .data (nextSample s) :: pulseTrace
        peer := s.peer.drop 1
        draws := drawsAfter 1 s.peer s.draws } := by
  simp [clockPulse, plain, microStep, runMicro, sampleData, waitQuanta, driveLowLine, floatLine, State.setLine, State.log,
    nextSample, pulseTrace]

/-! ### Samples -/

theorem drawsAfter_add (m n : Nat) (peer : List Bool) (draws : Nat) :
    drawsAfter (m + n) peer draws = drawsAfter n (peer.drop m) (drawsAfter m peer draws) := by
  simp only [drawsAfter, List.length_drop]
  omega

@[simp] theorem afterSamples_zero (s : State) : afterSamples 0 s = s := by
  simp [afterSamples, drawsAfter]

theorem afterSamples_add (m n : Nat) (s : State) : afterSamples (m + n) s = afterSamples n (afterSamples m s) := by
  simp [afterSamples, drawsAfter_add m n]

@[simp] theorem answersFrom_length (n : Nat) (peer : List Bool) (draws : Nat) :
    (answersFrom n peer draws).length = n := by
  induction n generalizing peer draws with
  | zero => rfl
  | succ n ih => simp [answersFrom, ih]

theorem answersFrom_add (m n : Nat) (peer : List Bool) (draws : Nat) :
    answersFrom (m + n) peer draws
      = answersFrom m peer draws ++ answersFrom n (peer.drop m) (drawsAfter m peer draws) := by
  induction m generalizing peer draws with
  | zero => simp [answersFrom, drawsAfter]
  | succ m ih =>
    rw [Nat.succ_add, answersFrom, ih, answersFrom, List.cons_append, List.drop_drop, ← drawsAfter_add,
      Nat.add_comm 1 m]

@[simp] theorem answers_length (n : Nat) (s : State) : (answers n s).length = n := answersFrom_length _ _ _

theorem answers_add (m n : Nat) (s : State) : answers (m + n) s = answers m s ++ answers n (afterSamples m s) :=
  answersFrom_add m n s.peer s.draws

/-! ### The received word -/

/-- A bit that is put is there, every other bit is as it was (R131). -/
theorem putBit_getLsbD (v : HalfWord) (i j : Nat) (b : Bool) (hi : i < 16) :
    (putBit v i b).getLsbD j = if j = i then b else v.getLsbD j := by
  by_cases hj : j < 16
  · by_cases h : j = i
    · subst h
      simp [putBit, hj]
    · by_cases hlt : j < i
      · simp [putBit, hj, h, hlt]
      · have : j - i ≠ 0 := by omega
        simp [putBit, hj, h, hlt, this]
  · have : j ≠ i := by omega
    simp [this, BitVec.getLsbD_of_ge _ _ (Nat.le_of_not_lt hj)]

/-- Bits put at the listed places, from the first place and the first bit on. -/
def putBits : List Nat → List Bool → HalfWord → HalfWord
  | i :: is, b :: bs, v => putBits is bs (putBit v i b)
  | _, _, v => v

/-- The bits of READWORD at the listed places (R131). -/
theorem runSteps_readBits (is : List Nat) (s : State) :
    runSteps (plain (is.flatMap fun i => .sampleBit i :: clockPulse)) s =
      { s with
        lineClk := if is.isEmpty then s.lineClk else .drivenLow
        sr := putBits is (answers is.length s) s.sr
        upc := s.upc + 5 * is.length
        trace := s.trace ++ byteReadTrace (answers is.length s)
        peer := s.peer.drop is.length
        draws := drawsAfter is.length s.peer s.draws } := by
  induction is generalizing s with
  | nil => simp [plain, putBits, answers, answersFrom, byteReadTrace, drawsAfter]
  | cons i is ih =>
    rw [List.flatMap_cons, plain_append, runSteps_append, runSteps_readBit, ih]
    have hd := drawsAfter_add 1 is.length s.peer s.draws
    rw [Nat.add_comm] at hd
    simp [answers, answersFrom, putBits, byteReadTrace, nextSample, hd]
    omega

/-- Sixteen samples put at their places make the word of R132, whatever SR held. -/
theorem putBits_word (v : HalfWord) (bits : List Bool) (h : bits.length = 16) :
    putBits [15, 14, 13, 12, 11, 10, 9, 8] (bits.drop 8) (putBits [7, 6, 5, 4, 3, 2, 1, 0] (bits.take 8) v)
      = wordOf bits := by
  match bits, h with
  | [a0, a1, a2, a3, a4, a5, a6, a7, a8, a9, a10, a11, a12, a13, a14, a15], _ =>
    have hle := Bool.toNat_le
    have hb : ∀ b : Bool, b = decide (b.toNat = 1) := by decide
    apply BitVec.eq_of_getLsbD_eq
    intro i hi
    simp only [putBits, List.take, List.drop, putBit_getLsbD _ _ _ _ (by decide : (15 : Nat) < 16),
      putBit_getLsbD _ _ _ _ (by decide : (14 : Nat) < 16), putBit_getLsbD _ _ _ _ (by decide : (13 : Nat) < 16),
      putBit_getLsbD _ _ _ _ (by decide : (12 : Nat) < 16), putBit_getLsbD _ _ _ _ (by decide : (11 : Nat) < 16),
      putBit_getLsbD _ _ _ _ (by decide : (10 : Nat) < 16), putBit_getLsbD _ _ _ _ (by decide : (9 : Nat) < 16),
      putBit_getLsbD _ _ _ _ (by decide : (8 : Nat) < 16), putBit_getLsbD _ _ _ _ (by decide : (7 : Nat) < 16),
      putBit_getLsbD _ _ _ _ (by decide : (6 : Nat) < 16), putBit_getLsbD _ _ _ _ (by decide : (5 : Nat) < 16),
      putBit_getLsbD _ _ _ _ (by decide : (4 : Nat) < 16), putBit_getLsbD _ _ _ _ (by decide : (3 : Nat) < 16),
      putBit_getLsbD _ _ _ _ (by decide : (2 : Nat) < 16), putBit_getLsbD _ _ _ _ (by decide : (1 : Nat) < 16),
      putBit_getLsbD _ _ _ _ (by decide : (0 : Nat) < 16)]
    have hw : (wordOf [a0, a1, a2, a3, a4, a5, a6, a7, a8, a9, a10, a11, a12, a13, a14, a15]).getLsbD i
        = decide (wordValue [a0, a1, a2, a3, a4, a5, a6, a7, a8, a9, a10, a11, a12, a13, a14, a15] / 2 ^ i % 2 = 1) := by
      rw [wordOf, BitVec.getLsbD_ofNat, Nat.testBit_eq_decide_div_mod_eq]
      simp [hi]
    rw [hw]
    have h0 := hle a0; have h1 := hle a1; have h2 := hle a2; have h3 := hle a3
    have h4 := hle a4; have h5 := hle a5; have h6 := hle a6; have h7 := hle a7
    have h8 := hle a8; have h9 := hle a9; have h10 := hle a10; have h11 := hle a11
    have h12 := hle a12; have h13 := hle a13; have h14 := hle a14; have h15 := hle a15
    simp only [wordValue, List.range_succ, List.range_zero, List.nil_append, List.map_append, List.map_cons, List.map_nil,
      List.sum_append, List.sum_cons, List.sum_nil, List.getD_cons_zero, List.getD_cons_succ]
    interval_cases i <;> simp only [reduceIte, Nat.reduceEqDiff, OfNat.ofNat_ne_zero] <;>
      (refine (hb _).trans (decide_eq_decide.mpr ?_); omega)

end Sys2Proof.Machine
end

