-- ==== Sys2Proof/Laws/Bodies.lean ====
section
/-! SUPPORT. READWORD's micro-program and one READREG attempt in closed form. -/

namespace Sys2Proof.Machine

theorem runSteps_clockPulse (s : State) :
    runSteps (plain clockPulse) s =
      { s with lineClk := .drivenLow, upc := s.upc + 4, trace := s.trace ++ pulseTrace } := by
  simp [clockPulse, plain, microStep, runMicro, waitQuanta, driveLowLine, floatLine, State.setLine, State.log, pulseTrace]

theorem runSteps_driveData (s : State) :
    runSteps (plain [.driveLow .data, .wait 1]) s =
      { s with lineData := .drivenLow, upc := s.upc + 2, trace := s.trace ++ [.driveLow .data, .wait 1] } := by
  simp [plain, microStep, runMicro, waitQuanta, driveLowLine, State.setLine, State.log]

theorem runSteps_floatData (s : State) :
    runSteps (plain [.float .data, .wait 1]) s =
      { s with lineData := .floating, upc := s.upc + 2, trace := s.trace ++ [.float .data, .wait 1] } := by
  simp [plain, microStep, runMicro, waitQuanta, floatLine, State.setLine, State.log]

theorem readByte_low : readByte 0 = [7, 6, 5, 4, 3, 2, 1, 0].flatMap fun i => .sampleBit i :: clockPulse := rfl

theorem readByte_high :
    readByte 8 = [15, 14, 13, 12, 11, 10, 9, 8].flatMap fun i => .sampleBit i :: clockPulse := rfl

/-- READWORD up to its completion (R130, R132). -/
theorem runSteps_readwordBody (s : State) :
    runSteps readwordBody s =
      { s with
        lineClk := .drivenLow
        lineData := .floating
        sr := wordOf (answers 16 s)
        upc := s.upc + 94
        trace := s.trace ++ readwordTrace (answers 16 s)
        peer := s.peer.drop 16
        draws := drawsAfter 16 s.peer s.draws } := by
  rw [← putBits_word s.sr _ (by simp), answers_add 8 8, drawsAfter_add 8 8]
  simp only [readwordBody, readByte_low, readByte_high, plain_append, runSteps_append, runSteps_readBits,
    runSteps_driveData, runSteps_floatData, runSteps_clockPulse]
  simp [readwordTrace, answers]

theorem runSteps_start_of_attempt (s : State) :
    runSteps (endWith .openSession startBody) s = openSession (runSteps startBody s) :=
  runSteps_endWith .openSession startBody (by simp [startBody, plain]) s

theorem runSteps_sendbyte_of_attempt (v : Byte) (s : State) :
    runSteps (endWith .ackResult (sendbyteBody v)) s = ackResult (runSteps (sendbyteBody v) s) :=
  runSteps_endWith .ackResult (sendbyteBody v) (by simp [sendbyteBody, beginWith, plain, bitsDown, sendBit]) s

theorem runSteps_stop_of_attempt (s : State) :
    runSteps (endWith .attemptResult (endWith .closeSession stopBody)) s
      = attemptResult (closeSession (runSteps stopBody s)) := by
  have h : stopBody ≠ [] := by simp [stopBody, plain]
  exact (runSteps_endWith .attemptResult _ (endWith_ne_nil _ _ h) s).trans
    (congrArg attemptResult (runSteps_endWith .closeSession stopBody h s))

/-- One attempt (R151): lines, session, flags, word, result and trace. -/
theorem runSteps_attemptBody (wa rp ra : Byte) (s : State) :
    runSteps (attemptBody wa rp ra) s =
      { s with
        lineClk := .floating
        lineData := .floating
        txb := ra
        ackSample := (attemptAnswers s).ackRead
        ack := !(attemptAnswers s).ackRead
        sess := false
        err := (attemptAnswers s).failed
        sr := (attemptAnswers s).value
        rv := (attemptAnswers s).value
        rf := (attemptAnswers s).failed
        phase := phaseAfterAttempt s.att
        upc := s.upc + 281
        trace := s.trace ++ attemptTrace wa rp ra (attemptAnswers s)
        peer := s.peer.drop 19
        draws := drawsAfter 19 s.peer s.draws } := by
  have h19 := drawsAfter_add 3 16 s.peer s.draws
  have h3 := drawsAfter_add 2 1 s.peer s.draws
  have h2 := drawsAfter_add 1 1 s.peer s.draws
  simp only [Nat.reduceAdd] at h19 h3 h2
  simp only [attemptBody, runSteps_append, runSteps_start_of_attempt, runSteps_sendbyte_of_attempt,
    runSteps_stop_of_attempt, runSteps_startBody, runSteps_rstartBody, runSteps_stopBody, runSteps_sendbyteBody,
    runSteps_readwordBody, openSession, ackResult, closeSession, attemptResult]
  rw [h19, h3, h2]
  simp [attemptTrace, attemptAnswers, AttemptAnswers.failed, AttemptAnswers.value, answers, nextSample, h2, h3]

end Sys2Proof.Machine
end

