-- ==== Sys2Proof/Laws/Step.lean ====
section
/-! SUPPORT. Inversion lemmas: what a command's meaning, a micro-step, an engine step, a host access and a step of the
machine can do, each said once. -/

namespace Sys2Proof.Machine

/-! ### Meanings -/

/-- A command answers a next state exactly when nothing refuses it, and then it has run to its end. -/
theorem command_next {i : Instr} {r : Option RefuseReason} {run : State → State} {s t : State} :
    command i r run s = .next t ↔ s.busy = false ∧ r = none ∧ t = run (s.issue i) := by
  cases hb : s.busy <;> cases r <;> simp [command, hb, eq_comm]

/-- RF_BUSY comes before the precondition. -/
theorem command_refused {i : Instr} {r : Option RefuseReason} {run : State → State} {s : State} {q : RefuseReason} :
    command i r run s = .refused (.refuse q) ↔ (s.busy = true ∧ q = .busy) ∨ (s.busy = false ∧ r = some q) := by
  cases hb : s.busy <;> cases r <;> simp [command, hb, eq_comm]

/-- What a command does from the state it was issued in: its micro-program (READREG's with its loop) and its completion. -/
def runWhole (i : Instr) (s : State) : State :=
  match i with
  | .start => startDone (runSteps startBody s)
  | .rstart => rstartDone (runSteps rstartBody s)
  | .stop => stopDone (runSteps stopBody s)
  | .sendbyte v => sendbyteDone (runSteps (sendbyteBody v) s)
  | .readword => readwordDone (runSteps readwordBody s)
  | .readreg vc wa rp ra => readregDone vc (readregRun vc wa rp ra s)

/-- Every meaning has the one form. -/
theorem exec_eq_command (i : Instr) (s : State) : exec i s = command i (refusalOf i s) (runWhole i) s := by
  cases i <;> rfl

/-- When a command answers a next state, and which. -/
theorem exec_next {i : Instr} {s t : State} :
    exec i s = .next t ↔ s.busy = false ∧ refusalOf i s = none ∧ t = runWhole i (s.issue i) := by
  rw [exec_eq_command, command_next]

/-- When a command is refused, and why. -/
theorem exec_refused {i : Instr} {s : State} {r : RefuseReason} :
    exec i s = .refused (.refuse r) ↔ (s.busy = true ∧ r = .busy) ∨ (s.busy = false ∧ refusalOf i s = some r) := by
  rw [exec_eq_command, command_refused]

/-- A command answers a next state or is refused for a reason of R183, nothing else. -/
theorem exec_cases (i : Instr) (s : State) : (∃ t, exec i s = .next t) ∨ ∃ r, exec i s = .refused (.refuse r) := by
  cases hb : s.busy
  · cases hr : refusalOf i s with
    | none => exact .inl ⟨_, exec_next.mpr ⟨hb, hr, rfl⟩⟩
    | some r => exact .inr ⟨r, exec_refused.mpr (.inr ⟨hb, hr⟩)⟩
  · exact .inr ⟨.busy, exec_refused.mpr (.inl ⟨hb, rfl⟩)⟩

/-! ### Micro-steps -/

/-- The fields no micro-operation and no attached register write touches agree. -/
structure Apart (s t : State) : Prop where
  bounds : t.bounds = s.bounds
  cur : t.cur = s.cur
  att : t.att = s.att
  rxdata : t.rxdata = s.rxdata
  failed : t.failed = s.failed
  valid : t.valid = s.valid
  attempts : t.attempts = s.attempts
  lastop : t.lastop = s.lastop
  busy : t.busy = s.busy
  busyDraws : t.busyDraws = s.busyDraws
  inputs : t.inputs = s.inputs
  reads : t.reads = s.reads
  refusals : t.refusals = s.refusals

theorem Apart.refl (s : State) : Apart s s := by constructor <;> rfl

theorem Apart.trans {s t u : State} (h : Apart s t) (k : Apart t u) : Apart s u where
  bounds := k.bounds.trans h.bounds
  cur := k.cur.trans h.cur
  att := k.att.trans h.att
  rxdata := k.rxdata.trans h.rxdata
  failed := k.failed.trans h.failed
  valid := k.valid.trans h.valid
  attempts := k.attempts.trans h.attempts
  lastop := k.lastop.trans h.lastop
  busy := k.busy.trans h.busy
  busyDraws := k.busyDraws.trans h.busyDraws
  inputs := k.inputs.trans h.inputs
  reads := k.reads.trans h.reads
  refusals := k.refusals.trans h.refusals

theorem apart_runLatch (s : State) (c : Latch) : Apart s (runLatch s c) := by
  cases c <;> constructor <;> rfl

theorem apart_runLatches (cs : List Latch) (s : State) : Apart s (cs.foldl runLatch s) := by
  induction cs generalizing s with
  | nil => exact .refl s
  | cons c cs ih => exact (apart_runLatch s c).trans (ih _)

theorem apart_runMicro (m : Micro) (s : State) : Apart s (runMicro m s) := by
  cases m with
  | float l => cases l <;> constructor <;> rfl
  | driveLow l => cases l <;> constructor <;> rfl
  | driveBit i => simp only [runMicro]; split <;> constructor <;> rfl
  | wait k => constructor <;> rfl
  | sampleAck => constructor <;> rfl
  | sampleBit i => constructor <;> rfl

theorem apart_microStep (s : State) (m : MicroStep) : Apart s (microStep s m) := by
  have h := ((apart_runLatches m.before s).trans (apart_runMicro m.op _)).trans (apart_runLatches m.after _)
  exact h.trans (by constructor <;> rfl)

/-- Register writes leave lines, trace and samples alone. -/
theorem runLatches_lines (cs : List Latch) (s : State) :
    (cs.foldl runLatch s).lineClk = s.lineClk ∧ (cs.foldl runLatch s).lineData = s.lineData
      ∧ (cs.foldl runLatch s).trace = s.trace ∧ (cs.foldl runLatch s).upc = s.upc := by
  induction cs generalizing s with
  | nil => exact ⟨rfl, rfl, rfl, rfl⟩
  | cons c cs ih => cases c <;> exact ih _

/-- The one event of a micro-operation, and the lines after it (00_scope.md R9 to R14). -/
theorem runMicro_event (m : Micro) (s : State) :
    ∃ e, (runMicro m s).trace = s.trace ++ [e] ∧ (runMicro m s).lineClk = driveAfter .clk s.lineClk e
      ∧ (runMicro m s).lineData = driveAfter .data s.lineData e ∧ (runMicro m s).upc = s.upc := by
  cases m with
  | float l => cases l <;> exact ⟨.float _, rfl, rfl, rfl, rfl⟩
  | driveLow l => cases l <;> exact ⟨.driveLow _, rfl, rfl, rfl, rfl⟩
  | driveBit i =>
    simp only [runMicro]
    split
    · exact ⟨.float .data, rfl, rfl, rfl, rfl⟩
    · exact ⟨.driveLow .data, rfl, rfl, rfl, rfl⟩
  | wait k => exact ⟨.wait k, rfl, rfl, rfl, rfl⟩
  | sampleAck => exact ⟨.sample .data _, rfl, rfl, rfl, rfl⟩
  | sampleBit i => exact ⟨.sample .data _, rfl, rfl, rfl, rfl⟩

/-- A micro-step leaves one event, moves the lines as the event says and takes `upc` one on. -/
theorem microStep_event (s : State) (m : MicroStep) :
    ∃ e, (microStep s m).trace = s.trace ++ [e] ∧ (microStep s m).lineClk = driveAfter .clk s.lineClk e
      ∧ (microStep s m).lineData = driveAfter .data s.lineData e ∧ (microStep s m).upc = s.upc + 1 := by
  obtain ⟨bc, bd, bt, bu⟩ := runLatches_lines m.before s
  obtain ⟨e, et, ec, ed, eu⟩ := runMicro_event m.op (m.before.foldl runLatch s)
  obtain ⟨ac, ad, at', au⟩ := runLatches_lines m.after (runMicro m.op (m.before.foldl runLatch s))
  refine ⟨e, ?_, ?_, ?_, ?_⟩
  · simp only [microStep]; rw [at', et, bt]
  · simp only [microStep]; rw [ac, ec, bc]
  · simp only [microStep]; rw [ad, ed, bd]
  · simp only [microStep]; rw [au, eu, bu]

/-- The programs of the five single commands write no flag: at most TXB is loaded. -/
theorem program_latches (i : Instr) (h : i.opcode ≠ 0x6#4) (m : MicroStep) (hm : m ∈ program i) :
    (∀ c ∈ m.before, ∃ v, c = .loadTxb v) ∧ m.after = [] := by
  have hp : ∀ ms : List Micro, ∀ x ∈ plain ms, x.before = [] ∧ x.after = [] := by
    intro ms x hx
    simp only [plain, List.mem_map] at hx
    obtain ⟨a, -, rfl⟩ := hx
    exact ⟨rfl, rfl⟩
  cases i with
  | readreg => exact absurd rfl h
  | sendbyte v =>
    have hb : program (.sendbyte v) = { before := [.loadTxb v], op := .driveBit 7, after := [] } ::
        (plain (bitsDown.flatMap sendBit ++ ackSlot)).tail := rfl
    rw [hb] at hm
    rcases List.mem_cons.mp hm with rfl | hm
    · exact ⟨by simp, rfl⟩
    · have := hp _ m (List.mem_of_mem_tail hm)
      simp [this]
  | start => have := hp _ m hm; simp [this]
  | rstart => have := hp _ m hm; simp [this]
  | stop => have := hp _ m hm; simp [this]
  | readword => have := hp _ m hm; simp [this]

theorem runMicro_flags (m : Micro) (s : State) :
    (runMicro m s).sess = s.sess ∧ (runMicro m s).err = s.err ∧ (runMicro m s).ack = s.ack
      ∧ (runMicro m s).phase = s.phase := by
  cases m with
  | float l => cases l <;> exact ⟨rfl, rfl, rfl, rfl⟩
  | driveLow l => cases l <;> exact ⟨rfl, rfl, rfl, rfl⟩
  | driveBit i => simp only [runMicro]; split <;> exact ⟨rfl, rfl, rfl, rfl⟩
  | wait k => exact ⟨rfl, rfl, rfl, rfl⟩
  | sampleAck => exact ⟨rfl, rfl, rfl, rfl⟩
  | sampleBit i => exact ⟨rfl, rfl, rfl, rfl⟩

/-- A micro-step of a single command writes no flag (the flags are the completion's). -/
theorem microStep_flags (i : Instr) (h : i.opcode ≠ 0x6#4) (m : MicroStep) (hm : m ∈ program i) (s : State) :
    (microStep s m).sess = s.sess ∧ (microStep s m).err = s.err ∧ (microStep s m).ack = s.ack
      ∧ (microStep s m).phase = s.phase := by
  obtain ⟨hb, ha⟩ := program_latches i h m hm
  have hl : ∀ (cs : List Latch) (u : State), (∀ c ∈ cs, ∃ v, c = .loadTxb v) →
      (cs.foldl runLatch u).sess = u.sess ∧ (cs.foldl runLatch u).err = u.err ∧ (cs.foldl runLatch u).ack = u.ack
        ∧ (cs.foldl runLatch u).phase = u.phase := by
    intro cs
    induction cs with
    | nil => exact fun u _ => ⟨rfl, rfl, rfl, rfl⟩
    | cons c cs ih =>
      intro u hc
      obtain ⟨v, rfl⟩ := hc c (List.mem_cons_self ..)
      exact ih _ (fun c' h' => hc c' (List.mem_cons_of_mem _ h'))
  have h1 := hl m.before s hb
  have h2 := runMicro_flags m.op (m.before.foldl runLatch s)
  simp only [microStep, ha, List.foldl_nil]
  exact ⟨h2.1.trans h1.1, h2.2.1.trans h1.2.1, h2.2.2.1.trans h1.2.2.1, h2.2.2.2.trans h1.2.2.2⟩

/-! ### The engine -/

/-- An engine step runs a micro-operation of the command in CUR, or is CHECK, or completes the command. -/
theorem engineStep_cases {s t : State} (h : engineStep s = .next t) :
    ∃ i, s.cur = some i
      ∧ ((∃ m, (program i)[s.upc]? = some m ∧ t = microStep s m) ∨ (s.phase = .check ∧ t = checkStep i s)
        ∨ t = finish i s) := by
  unfold engineStep at h
  cases hc : s.cur with
  | none => simp [hc] at h
  | some i =>
    refine ⟨i, rfl, ?_⟩
    have ha : ∀ {u}, Host.Outcome.next (advance i s) = (Host.Outcome.next u : Host.Outcome State Fault Refusal) →
        (∃ m, (program i)[s.upc]? = some m ∧ u = microStep s m) ∨ u = finish i s := by
      intro u hu
      obtain rfl := Host.Outcome.next.inj hu
      unfold advance
      cases hp : (program i)[s.upc]? with
      | none => exact .inr rfl
      | some m => exact .inl ⟨m, rfl, rfl⟩
    simp only [hc] at h
    cases hph : s.phase <;> simp only [hph] at h
    · rcases ha h with h | h
      · exact .inl h
      · exact .inr (.inr h)
    · rcases ha h with h | h
      · exact .inl h
      · exact .inr (.inr h)
    · exact .inr (.inl ⟨rfl, (Host.Outcome.next.inj h).symm⟩)
    · rcases ha h with h | h
      · exact .inl h
      · exact .inr (.inr h)
    · exact .inr (.inr (Host.Outcome.next.inj h).symm)

/-! ### The host -/

/-- A host read marks the run, or gives the host a value; the block is as it was. -/
theorem hostRead_sameBlock (off width : Nat) (s : State) : sameBlock s (hostRead off width s) := by
  unfold hostRead readBusy sameBlock
  (repeat' split) <;> rfl

/-- A host read makes no input. -/
theorem hostRead_inputs (off width : Nat) (s : State) : (hostRead off width s).inputs = s.inputs := by
  unfold hostRead readBusy
  (repeat' split) <;> rfl

/-- A CMD write is refused, or accepted: BUSY = 0, the word decodes, the precondition holds. -/
theorem issueCommand_cases (w : Word) (s : State) :
    (∃ r, issueCommand w s = s.refuse r)
      ∨ ∃ i, s.busy = false ∧ decode w = .ok i ∧ refusalOf i s = none ∧ issueCommand w s = accept i s := by
  unfold issueCommand
  cases hb : s.busy
  · cases hd : decode w with
    | error r => exact .inl ⟨r, rfl⟩
    | ok i =>
      cases hr : refusalOf i s with
      | none => exact .inr ⟨i, rfl, rfl, hr, by simp [hr]⟩
      | some r => exact .inl ⟨r, by simp [hr]⟩
  · exact .inl ⟨.busy, rfl⟩

/-- A host write is refused or is an accepted CMD write. -/
theorem hostWrite_cases (off width : Nat) (v : Word) (s : State) :
    (∃ r, hostWrite off width v s = s.refuse r)
      ∨ ∃ i, s.busy = false ∧ decode v = .ok i ∧ refusalOf i s = none ∧ hostWrite off width v s = accept i s := by
  unfold hostWrite
  split
  · exact .inl ⟨_, rfl⟩
  · split
    · exact issueCommand_cases v s
    · exact .inl ⟨_, rfl⟩

/-- The host action "cmd" marks the run or runs a command to its end. -/
theorem runCommandWord_cases (w : Word) (s : State) :
    (∃ r, runCommandWord w s = .next (s.refuse r))
      ∨ ∃ i t, s.busy = false ∧ decode w = .ok i ∧ exec i s = .next t ∧ runCommandWord w s = .next t := by
  unfold runCommandWord
  cases hb : s.busy
  · cases hd : decode w with
    | error r => exact .inl ⟨r, rfl⟩
    | ok i =>
      rcases exec_cases i s with ⟨t, ht⟩ | ⟨r, hr⟩
      · exact .inr ⟨i, t, rfl, rfl, ht, by simp [afterExec, ht]⟩
      · exact .inl ⟨r, by simp [afterExec, hr]⟩
  · exact .inl ⟨.busy, rfl⟩

/-- The word of a decoded command runs it (60_exceptions.md R183 where it is refused). -/
theorem runCommandWord_ok {w : Word} {i : Instr} {s : State} (hb : s.busy = false) (hd : decode w = .ok i) :
    runCommandWord w s = afterExec s (exec i s) := by
  simp [runCommandWord, hb, hd]

/-- A 32-bit write at offset 0 issues the command. -/
theorem hostWrite_cmd (w : Word) (s : State) : hostWrite 0x0 4 w s = issueCommand w s := rfl

/-- A CMD write whose command is accepted (20_memory.md R56). -/
theorem issueCommand_accept {w : Word} {i : Instr} {s : State} (hb : s.busy = false) (hd : decode w = .ok i)
    (hr : refusalOf i s = none) : issueCommand w s = accept i s := by
  simp [issueCommand, hb, hd, hr]

/-- A CMD write whose command's precondition fails (R56). -/
theorem issueCommand_refuse {w : Word} {i : Instr} {s : State} {r : RefuseReason} (hb : s.busy = false)
    (hd : decode w = .ok i) (hr : refusalOf i s = some r) : issueCommand w s = s.refuse r := by
  simp [issueCommand, hb, hd, hr]

/-- The word that `withFetchWord` places. -/
theorem tableWord_toNat (w : Word) : tableWord 32 w.toNat = w := by
  apply BitVec.eq_of_toNat_eq
  simp [tableWord, Nat.mod_eq_of_lt w.isLt]

/-! ### A step of the machine -/

/-- Everything a step can do. `u` is the state with the input taken. -/
theorem step_cases {s t : State} (h : step s = .next t) :
    ∃ rest, (s.inputs = rest ∨ ∃ x, s.inputs = x :: rest) ∧
      ((engineNext s ∧ s.busy = false ∧ t = { s with inputs := rest })
      ∨ (engineNext s ∧ s.busy = true ∧ engineStep { s with inputs := rest } = .next t)
      ∨ (∃ r, t = State.refuse { s with inputs := rest } r)
      ∨ (∃ w i, s.inputs = .cmd w :: rest ∧ s.busy = false ∧ decode w = .ok i
          ∧ exec i { s with inputs := rest } = .next t)
      ∨ (∃ off width, s.inputs = .read off width :: rest ∧ t = hostRead off width { s with inputs := rest })
      ∨ (∃ off width w i, s.inputs = .write off width w :: rest ∧ s.busy = false ∧ decode w = .ok i
          ∧ refusalOf i { s with inputs := rest } = none ∧ t = accept i { s with inputs := rest })
      ∨ (s.inputs = .reset :: rest ∧ t = State.applyReset { s with inputs := rest })) := by
  have heng : ∀ u : State, u.busy = s.busy → engineTurn u = .next t →
      (s.busy = false ∧ t = u) ∨ (s.busy = true ∧ engineStep u = .next t) := by
    intro u hu he
    unfold engineTurn at he
    cases hb : s.busy <;> simp [hu, hb] at he
    · exact .inl ⟨rfl, he.symm⟩
    · exact .inr ⟨rfl, he⟩
  unfold step at h
  cases hi : s.inputs with
  | nil =>
    have hs : { s with inputs := [] } = s := by rw [← hi]
    simp only [hi] at h
    refine ⟨[], .inl rfl, ?_⟩
    rw [hs]
    rcases heng s rfl h with ⟨hb, rfl⟩ | ⟨hb, he⟩
    · exact .inl ⟨.inl hi, hb, rfl⟩
    · exact .inr (.inl ⟨.inl hi, hb, he⟩)
  | cons x rest =>
    refine ⟨rest, .inr ⟨x, rfl⟩, ?_⟩
    simp only [hi] at h
    cases x with
    | cmd w =>
      rcases runCommandWord_cases w { s with inputs := rest } with ⟨r, hr⟩ | ⟨i, u, hb, hd, he, hr⟩
      · exact .inr (.inr (.inl ⟨r, Host.Outcome.next.inj (h.symm.trans hr)⟩))
      · obtain rfl := Host.Outcome.next.inj (h.symm.trans hr)
        exact .inr (.inr (.inr (.inl ⟨w, i, rfl, hb, hd, he⟩)))
    | read off width =>
      exact .inr (.inr (.inr (.inr (.inl ⟨off, width, rfl, (Host.Outcome.next.inj h).symm⟩))))
    | write off width v =>
      obtain rfl := Host.Outcome.next.inj h
      rcases hostWrite_cases off width v { s with inputs := rest } with ⟨r, hr⟩ | ⟨i, hb, hd, hr, he⟩
      · exact .inr (.inr (.inl ⟨r, hr⟩))
      · exact .inr (.inr (.inr (.inr (.inr (.inl ⟨off, width, v, i, rfl, hb, hd, hr, he⟩)))))
    | engine =>
      rcases heng { s with inputs := rest } rfl h with ⟨hb, he⟩ | ⟨hb, he⟩
      · exact .inl ⟨.inr ⟨rest, hi⟩, hb, he⟩
      · exact .inr (.inl ⟨.inr ⟨rest, hi⟩, hb, he⟩)
    | reset =>
      exact .inr (.inr (.inr (.inr (.inr (.inr ⟨rfl, (Host.Outcome.next.inj h).symm⟩)))))

end Sys2Proof.Machine
end

