-- ==== Sys2Proof/Laws/Commands.lean ====
section
/-! SUPPORT. What each command leaves when it has run from the state it was issued in: its state as one record update. -/

namespace Sys2Proof.Machine

/-- START (R100). -/
theorem runWhole_start (s : State) :
    runWhole .start s =
      { s with
        lineClk := .drivenLow, lineData := .drivenLow, sess := true, err := false, lastop := 0x1#4, busy := false
        upc := s.upc + 5, trace := s.trace ++ startTrace } := by
  simp [runWhole, runSteps_startBody, startDone, complete, openSession]

/-- RSTART (R103). -/
theorem runWhole_rstart (s : State) :
    runWhole .rstart s =
      { s with
        lineClk := .drivenLow, lineData := .drivenLow, lastop := 0x2#4, busy := false
        upc := s.upc + 8, trace := s.trace ++ rstartTrace } := by
  simp [runWhole, runSteps_rstartBody, rstartDone, complete]

/-- STOP (R105). -/
theorem runWhole_stop (s : State) :
    runWhole .stop s =
      { s with
        lineClk := .floating, lineData := .floating, sess := false, lastop := 0x3#4, busy := false
        upc := s.upc + 6, trace := s.trace ++ stopTrace } := by
  simp [runWhole, runSteps_stopBody, stopDone, complete, closeSession]

/-- SENDBYTE (R120). -/
theorem runWhole_sendbyte (v : Byte) (s : State) :
    runWhole (.sendbyte v) s =
      { s with
        lineClk := .drivenLow, lineData := .floating, txb := v, ackSample := nextSample s, ack := !nextSample s
        err := s.err || nextSample s, lastop := 0x4#4, busy := false, upc := s.upc + 56
        trace := s.trace ++ sendbyteTrace v (nextSample s)
        peer := s.peer.drop 1, draws := drawsAfter 1 s.peer s.draws } := by
  simp [runWhole, runSteps_sendbyteBody, sendbyteDone, complete, ackResult]

/-- READWORD (R130). -/
theorem runWhole_readword (s : State) :
    runWhole .readword s =
      { s with
        lineClk := .drivenLow, lineData := .floating, sr := wordOf (answers 16 s), rxdata := wordOf (answers 16 s)
        lastop := 0x5#4, busy := false, upc := s.upc + 94, trace := s.trace ++ readwordTrace (answers 16 s)
        peer := s.peer.drop 16, draws := drawsAfter 16 s.peer s.draws } := by
  simp [runWhole, runSteps_readwordBody, readwordDone, complete]

/-- READREG (R150, R155). -/
theorem runWhole_readreg (vc : BitVec 4) (wa rp ra : Byte) (s : State) :
    runWhole (.readreg vc wa rp ra) s = { s with
        lineClk := .floating, lineData := .floating, txb := ra
        ackSample := (returnedAnswers vc s).ackRead, ack := !(returnedAnswers vc s).ackRead
        err := (returnedAnswers vc s).failed, rf := (returnedAnswers vc s).failed
        failed := (returnedAnswers vc s).failed
        sr := (returnedAnswers vc s).value, rv := (returnedAnswers vc s).value, rxdata := (returnedAnswers vc s).value
        valid := valid s.bounds vc (returnedAnswers vc s).value
        att := if oneAttempt vc s then .first else .second
        attempts := if oneAttempt vc s then 1#2 else 2#2
        phase := .idle, sess := false, lastop := 0x6#4, busy := false
        trace := s.trace ++ readregTrace vc wa rp ra s
        peer := (afterSamples (if oneAttempt vc s then 19 else 38) s).peer
        draws := (afterSamples (if oneAttempt vc s then 19 else 38) s).draws
        upc := s.upc + if oneAttempt vc s then 281 else 562 } := by
  have h38 := drawsAfter_add 19 19 s.peer s.draws
  simp only [Nat.reduceAdd] at h38
  have hA : attemptAnswers (beginReadreg s) = attemptAnswers s := rfl
  cases h1 : oneAttempt vc s
  · have hr : ((attemptAnswers s).failed || !valid s.bounds vc (attemptAnswers s).value) = true := by
      simp [oneAttempt] at h1
      cases hf : (attemptAnswers s).failed <;> simp_all
    simp only [runWhole, readregRun, runSteps_attemptBody, hA, beginReadreg_bounds, checkRetry, retryWanted, hr, if_true]
    simp only [returnedAnswers, readregTrace, h1]
    simp [readregDone, complete, beginReadreg, AttemptNo.bits, h38, attemptAnswers, afterSamples, answers, nextSample,
      AttemptAnswers.failed, AttemptAnswers.value]
  · have hr : ((attemptAnswers s).failed || !valid s.bounds vc (attemptAnswers s).value) = false := by
      simp [oneAttempt] at h1
      simp [h1]
    simp only [runWhole, readregRun, runSteps_attemptBody, hA, beginReadreg_bounds, checkRetry, retryWanted, hr]
    simp only [returnedAnswers, readregTrace, h1]
    simp [readregDone, complete, beginReadreg, AttemptNo.bits, afterSamples]

end Sys2Proof.Machine
end

