-- ==== Sys2Proof/Laws/Encoding.lean ====
section
/-! SUPPORT. The command word and its fields: what was put in a field is read from it, and a word is its five fields
(30_encoding.md R70). -/

namespace Sys2Proof

@[simp] theorem opField_commandWord (b2 b1 b0 : Byte) (vc op : BitVec 4) :
    opField (commandWord b2 b1 b0 vc op) = op := by
  apply BitVec.eq_of_getLsbD_eq
  intro i hi
  simp only [opField, commandWord, BitVec.getLsbD_append, BitVec.getLsbD_extractLsb']
  interval_cases i <;> simp

@[simp] theorem vcField_commandWord (b2 b1 b0 : Byte) (vc op : BitVec 4) :
    vcField (commandWord b2 b1 b0 vc op) = vc := by
  apply BitVec.eq_of_getLsbD_eq
  intro i hi
  simp only [vcField, commandWord, BitVec.getLsbD_append, BitVec.getLsbD_extractLsb']
  interval_cases i <;> simp

@[simp] theorem b0Field_commandWord (b2 b1 b0 : Byte) (vc op : BitVec 4) :
    b0Field (commandWord b2 b1 b0 vc op) = b0 := by
  apply BitVec.eq_of_getLsbD_eq
  intro i hi
  simp only [b0Field, commandWord, BitVec.getLsbD_append, BitVec.getLsbD_extractLsb']
  interval_cases i <;> simp

@[simp] theorem b1Field_commandWord (b2 b1 b0 : Byte) (vc op : BitVec 4) :
    b1Field (commandWord b2 b1 b0 vc op) = b1 := by
  apply BitVec.eq_of_getLsbD_eq
  intro i hi
  simp only [b1Field, commandWord, BitVec.getLsbD_append, BitVec.getLsbD_extractLsb']
  interval_cases i <;> simp

@[simp] theorem b2Field_commandWord (b2 b1 b0 : Byte) (vc op : BitVec 4) :
    b2Field (commandWord b2 b1 b0 vc op) = b2 := by
  apply BitVec.eq_of_getLsbD_eq
  intro i hi
  simp only [b2Field, commandWord, BitVec.getLsbD_append, BitVec.getLsbD_extractLsb']
  interval_cases i <;> simp

/-- A word is its five fields. -/
theorem commandWord_fields (w : Word) :
    commandWord (b2Field w) (b1Field w) (b0Field w) (vcField w) (opField w) = w := by
  apply BitVec.eq_of_getLsbD_eq
  intro i hi
  simp only [commandWord, b2Field, b1Field, b0Field, vcField, opField, BitVec.getLsbD_append,
    BitVec.getLsbD_extractLsb']
  interval_cases i <;> simp

end Sys2Proof
end

