-- ==== Sys2Proof/Laws/PerInstr.lean ====
section
/-! SUPPORT. Statements made for every command as syntax, one lemma a constructor: the word of a command carries
its opcode in bits 3:0 (30_encoding.md R70, R71). -/

namespace Sys2Proof.Laws.OpcodeField

/-- Bits 3:0 of the command's word are its opcode, which is one of 1 to 6 (R71). -/
def Statement (i : Instr) : Prop := opField (encode i) = i.opcode ∧ 1 ≤ i.opcode.toNat ∧ i.opcode.toNat ≤ 6

theorem start : Statement .start := ⟨opField_commandWord .., by decide⟩

theorem rstart : Statement .rstart := ⟨opField_commandWord .., by decide⟩

theorem stop : Statement .stop := ⟨opField_commandWord .., by decide⟩

theorem sendbyte (value : Byte) : Statement (.sendbyte value) := ⟨opField_commandWord .., by simp [Instr.opcode]⟩

theorem readword : Statement .readword := ⟨opField_commandWord .., by decide⟩

theorem readreg (vc : BitVec 4) (writeAddr regPointer readAddr : Byte) :
    Statement (.readreg vc writeAddr regPointer readAddr) := ⟨opField_commandWord .., by simp [Instr.opcode]⟩

end Sys2Proof.Laws.OpcodeField
end

