-- ==== Sys2Proof/Laws/Runs.lean ====
section
/-! SUPPORT. Runs of the engine: how many micro-operations a program has, which of them leave the retry state machine
where it is, that an engine left to itself runs a program step by step, and that the world outside the block does not
matter to it. -/

namespace Sys2Proof.Machine

/-! ### Programs run to their end -/

theorem apart_runSteps (p : List MicroStep) (s : State) : Apart s (runSteps p s) := by
  induction p generalizing s with
  | nil => exact .refl s
  | cons m p ih => exact (apart_microStep s m).trans (ih _)

/-- A micro-operation a step, an event a micro-operation. -/
theorem runSteps_counts (p : List MicroStep) (s : State) :
    (runSteps p s).upc = s.upc + p.length ∧ (runSteps p s).trace.length = s.trace.length + p.length := by
  induction p generalizing s with
  | nil => exact ⟨rfl, rfl⟩
  | cons m p ih =>
    obtain ⟨e, ht, -, -, hu⟩ := microStep_event s m
    rw [runSteps_cons, (ih _).1, (ih _).2, ht, hu]
    simp only [List.length_append, List.length_cons, List.length_nil]
    omega

/-- A micro-step without the end of an attempt in it leaves the retry state machine where it is. -/
def keepsPhase (m : MicroStep) : Bool := m.before.all (· != .attemptResult) && m.after.all (· != .attemptResult)

theorem runLatches_phase (cs : List Latch) (s : State) (h : cs.all (· != .attemptResult) = true) :
    (cs.foldl runLatch s).phase = s.phase := by
  induction cs generalizing s with
  | nil => rfl
  | cons c cs ih =>
    simp only [List.all_cons, Bool.and_eq_true] at h
    rw [List.foldl_cons, ih _ h.2]
    cases c <;> first | rfl | exact absurd h.1 (by decide)

theorem microStep_phase (m : MicroStep) (s : State) (h : keepsPhase m = true) : (microStep s m).phase = s.phase := by
  simp only [keepsPhase, Bool.and_eq_true] at h
  simp only [microStep]
  rw [runLatches_phase _ _ h.2, (runMicro_flags _ _).2.2.2, runLatches_phase _ _ h.1]

theorem runSteps_phase (p : List MicroStep) (s : State) (h : p.all keepsPhase = true) :
    (runSteps p s).phase = s.phase := by
  induction p generalizing s with
  | nil => rfl
  | cons m p ih =>
    simp only [List.all_cons, Bool.and_eq_true] at h
    rw [runSteps_cons, ih _ h.2, microStep_phase m s h.1]

theorem program_keepsPhase (i : Instr) (h : i.opcode ≠ 0x6#4) : (program i).all keepsPhase = true := by
  rw [List.all_eq_true]
  intro m hm
  obtain ⟨hb, ha⟩ := program_latches i h m hm
  simp only [keepsPhase, ha, Bool.and_eq_true, List.all_eq_true]
  refine ⟨fun c hc => ?_, by simp⟩
  obtain ⟨v, rfl⟩ := hb c hc
  rfl

/-! ### The attempt -/

theorem endWith_length (c : Latch) (p : List MicroStep) : (endWith c p).length = p.length := by
  rcases p.eq_nil_or_concat' with rfl | ⟨q, m, rfl⟩
  · rfl
  · rw [endWith_concat]
    simp

theorem sendbyteBody_length (v : Byte) : (sendbyteBody v).length = 56 := rfl

theorem readwordBody_length : readwordBody.length = 94 := rfl

/-- The last micro-operation of an attempt. -/
def attemptEnd : MicroStep := { before := [], op := .wait 1, after := [.closeSession, .attemptResult] }

/-- An attempt up to its last micro-operation. -/
def attemptInit (wa rp ra : Byte) : List MicroStep :=
  endWith .openSession startBody ++ endWith .ackResult (sendbyteBody wa) ++ endWith .ackResult (sendbyteBody rp)
    ++ rstartBody ++ endWith .ackResult (sendbyteBody ra) ++ readwordBody ++ stopBody.dropLast

theorem attemptBody_eq (wa rp ra : Byte) : attemptBody wa rp ra = attemptInit wa rp ra ++ [attemptEnd] := by
  have h : endWith .attemptResult (endWith .closeSession stopBody) = stopBody.dropLast ++ [attemptEnd] := rfl
  simp only [attemptBody, attemptInit, h, List.append_assoc]

theorem attemptInit_length (wa rp ra : Byte) : (attemptInit wa rp ra).length = 280 := by
  have h1 : startBody.length = 5 := rfl
  have h2 : rstartBody.length = 8 := rfl
  have h3 : stopBody.dropLast.length = 5 := rfl
  simp only [attemptInit, List.length_append, endWith_length, sendbyteBody_length, readwordBody_length, h1, h2, h3]

theorem attemptBody_length (wa rp ra : Byte) : (attemptBody wa rp ra).length = 281 := by
  rw [attemptBody_eq, List.length_append, attemptInit_length]
  rfl

theorem attemptInit_keepsPhase (wa rp ra : Byte) : (attemptInit wa rp ra).all keepsPhase = true := by
  have h0 : (endWith .openSession startBody).all keepsPhase = true := rfl
  have h1 : ∀ v, (endWith .ackResult (sendbyteBody v)).all keepsPhase = true := fun _ => rfl
  have h2 : rstartBody.all keepsPhase = true := rfl
  have h3 : readwordBody.all keepsPhase = true := rfl
  have h4 : stopBody.dropLast.all keepsPhase = true := rfl
  simp only [attemptInit, List.all_append, h0, h1, h2, h3, h4, Bool.and_self]

/-- The end of an attempt leaves RUN1 or RUN2 (R158). -/
theorem attemptEnd_phase (s : State) : (microStep s attemptEnd).phase = phaseAfterAttempt s.att := rfl

/-- What is left of an attempt, run to its end, leaves RUN1 or RUN2. -/
theorem runSteps_attempt_phase (wa rp ra : Byte) (k : Nat) (hk : k ≤ 280) (s : State) :
    (runSteps ((attemptBody wa rp ra).drop k) s).phase = phaseAfterAttempt s.att := by
  rw [attemptBody_eq, List.drop_append_of_le_length (by rw [attemptInit_length]; exact hk), runSteps_append,
    runSteps_cons, runSteps_nil, attemptEnd_phase, (apart_runSteps _ _).att]

theorem program_length (i : Instr) :
    (program i).length = match i with
      | .start => 5
      | .rstart => 8
      | .stop => 6
      | .sendbyte _ => 56
      | .readword => 94
      | .readreg _ _ _ _ => 562 := by
  cases i with
  | readreg vc wa rp ra => simp only [program, List.length_append, attemptBody_length]
  | _ => rfl

/-- READREG's program in its first half. -/
theorem program_readreg_first (vc : BitVec 4) (wa rp ra : Byte) (k : Nat) (hk : k < 281) :
    (program (.readreg vc wa rp ra))[k]? = (attemptBody wa rp ra)[k]? := by
  simp only [program]
  rw [List.getElem?_append_left (by rw [attemptBody_length]; exact hk)]

/-- READREG's program in its second half. -/
theorem program_readreg_second (vc : BitVec 4) (wa rp ra : Byte) (k : Nat) (hk : 281 ≤ k) :
    (program (.readreg vc wa rp ra))[k]? = (attemptBody wa rp ra)[k - 281]? := by
  simp only [program]
  rw [List.getElem?_append_right (by rw [attemptBody_length]; exact hk), attemptBody_length]

/-! ### Completion and CHECK -/

/-- The completion step moves no line and leaves no event (20_memory.md R57). -/
theorem finish_facts (i : Instr) (s : State) :
    (finish i s).lastop = i.opcode ∧ (finish i s).busy = false ∧ (finish i s).trace = s.trace
      ∧ (finish i s).lineClk = s.lineClk ∧ (finish i s).lineData = s.lineData ∧ (finish i s).upc = s.upc := by
  cases i <;> exact ⟨rfl, rfl, rfl, rfl, rfl, rfl⟩

/-- CHECK moves no line and leaves no event (42_register_access.md R158). -/
theorem checkStep_facts (i : Instr) (s : State) :
    (checkStep i s).lastop = s.lastop ∧ (checkStep i s).busy = s.busy ∧ (checkStep i s).trace = s.trace
      ∧ (checkStep i s).lineClk = s.lineClk ∧ (checkStep i s).lineData = s.lineData ∧ (checkStep i s).upc = s.upc
      ∧ (checkStep i s).cur = s.cur ∧ (checkStep i s).attempts = s.attempts := by
  cases i with
  | readreg vc wa rp ra =>
    simp only [checkStep, checkRetry]
    split <;> exact ⟨rfl, rfl, rfl, rfl, rfl, rfl, rfl, rfl⟩
  | _ => exact ⟨rfl, rfl, rfl, rfl, rfl, rfl, rfl, rfl⟩

/-! ### Runs of steps -/

theorem run_add {a : Nat} {s t : State} (b : Nat) (h : stepsTo a s t) :
    Sys2Proof.core.run (a + b) s = Sys2Proof.core.run b t := by
  induction a generalizing s with
  | zero =>
    obtain rfl : s = t := Host.Outcome.next.inj h
    rw [Nat.zero_add]
  | succ a ih =>
    rw [Nat.succ_add]
    unfold stepsTo at h
    simp only [Host.Core.run] at *
    cases hs : Sys2Proof.core.step s with
    | next u =>
      rw [hs] at h
      exact ih h
    | fault => rw [hs] at h; cases h
    | refused => rw [hs] at h; cases h

theorem stepsTo_zero (s : State) : stepsTo 0 s s := rfl

theorem stepsTo_one {s t : State} (h : step s = .next t) : stepsTo 1 s t := by
  have hs : Sys2Proof.core.step s = .next t := h
  simp only [stepsTo, Host.Core.run, hs]

theorem stepsTo_add {a b : Nat} {s t u : State} (h : stepsTo a s t) (k : stepsTo b t u) : stepsTo (a + b) s u :=
  (run_add b h).trans k

theorem step_engine {s : State} (hi : s.inputs = []) (hb : s.busy = true) : step s = engineStep s := by
  simp [step, hi, engineTurn, hb]

/-- The steps of the engine run the listed micro-operations, if they are the program's at `upc` and none but the last
ends an attempt. -/
theorem stepsTo_runSteps (i : Instr) (p : List MicroStep) (s : State) (hi : s.inputs = []) (hb : s.busy = true)
    (hc : s.cur = some i) (hph : s.phase = .idle ∨ s.phase = .run1 ∨ s.phase = .run2)
    (hp : ∀ k < p.length, (program i)[s.upc + k]? = p[k]?) (hq : p.dropLast.all keepsPhase = true) :
    stepsTo p.length s (runSteps p s) := by
  induction p generalizing s with
  | nil => exact stepsTo_zero s
  | cons m p ih =>
    have h0 : (program i)[s.upc]? = some m := by simpa using hp 0 (by simp)
    have hstep : step s = .next (microStep s m) := by
      rw [step_engine hi hb]
      simp only [engineStep, hc]
      rcases hph with h | h | h <;> simp [h, advance, h0]
    have a := apart_microStep s m
    obtain ⟨e, -, -, -, hu⟩ := microStep_event s m
    rw [List.length_cons, Nat.add_comm, runSteps_cons]
    refine stepsTo_add (stepsTo_one hstep) ?_
    cases p with
    | nil => exact stepsTo_zero _
    | cons m' p =>
      simp only [List.dropLast_cons_cons, List.all_cons, Bool.and_eq_true] at hq
      refine ih (microStep s m) (a.inputs.trans hi) (a.busy.trans hb) (a.cur.trans hc) ?_ ?_ ?_
      · rw [microStep_phase m s hq.1]
        exact hph
      · intro k hk
        have h := hp (k + 1) (by simp only [List.length_cons] at *; omega)
        rw [hu, Nat.add_assoc, Nat.add_comm 1 k, h]
        rfl
      · exact hq.2

/-- The engine runs what is left of an attempt, from its place `k` in RUN1 or in RUN2. -/
theorem stepsTo_attempt (vc : BitVec 4) (wa rp ra : Byte) (s : State) (k : Nat) (hi : s.inputs = [])
    (hb : s.busy = true) (hc : s.cur = some (.readreg vc wa rp ra)) (hk : k ≤ 280)
    (hp : s.phase = .run1 ∧ s.upc = k ∨ s.phase = .run2 ∧ s.upc = 281 + k) :
    stepsTo (281 - k) s (runSteps ((attemptBody wa rp ra).drop k) s) := by
  have hl : ((attemptBody wa rp ra).drop k).length = 281 - k := by rw [List.length_drop, attemptBody_length]
  have hd : (attemptBody wa rp ra).drop k = (attemptInit wa rp ra).drop k ++ [attemptEnd] := by
    rw [attemptBody_eq, List.drop_append_of_le_length (by rw [attemptInit_length]; exact hk)]
  rw [← hl]
  refine stepsTo_runSteps _ _ s hi hb hc ?_ ?_ ?_
  · rcases hp with h | h
    · exact .inr (.inl h.1)
    · exact .inr (.inr h.1)
  · intro j hj
    rw [hl] at hj
    rw [List.getElem?_drop]
    rcases hp with h | h
    · rw [h.2, program_readreg_first _ _ _ _ _ (by omega)]
    · rw [h.2, program_readreg_second _ _ _ _ _ (by omega), show 281 + k + j - 281 = k + j by omega]
  · rw [hd, List.dropLast_concat]
    have h := attemptInit_keepsPhase wa rp ra
    rw [List.all_eq_true] at h ⊢
    exact fun m hm => h m (List.mem_of_mem_drop hm)

/-! ### The world outside the block does not matter to the engine -/

/-- The state with the host-side fields of another. -/
def State.withHostOf (s u : State) : State :=
  { s with inputs := u.inputs, reads := u.reads, refusals := u.refusals, busyDraws := u.busyDraws }

theorem runLatches_withHostOf (cs : List Latch) (s u : State) :
    cs.foldl runLatch (s.withHostOf u) = (cs.foldl runLatch s).withHostOf u := by
  induction cs generalizing s with
  | nil => rfl
  | cons c cs ih =>
    have h : runLatch (s.withHostOf u) c = (runLatch s c).withHostOf u := by cases c <;> rfl
    rw [List.foldl_cons, h, ih]
    rfl

theorem runMicro_withHostOf (m : Micro) (s u : State) : runMicro m (s.withHostOf u) = (runMicro m s).withHostOf u := by
  cases m with
  | float l => cases l <;> rfl
  | driveLow l => cases l <;> rfl
  | driveBit i =>
    have h : (s.withHostOf u).txb = s.txb := rfl
    simp only [runMicro, h]
    split <;> rfl
  | wait k => rfl
  | sampleAck => rfl
  | sampleBit i => rfl

theorem microStep_withHostOf (s u : State) (m : MicroStep) :
    microStep (s.withHostOf u) m = (microStep s m).withHostOf u := by
  simp only [microStep, runLatches_withHostOf, runMicro_withHostOf]
  rfl

theorem runSteps_withHostOf (p : List MicroStep) (s u : State) :
    runSteps p (s.withHostOf u) = (runSteps p s).withHostOf u := by
  induction p generalizing s with
  | nil => rfl
  | cons m p ih =>
    rw [runSteps_cons, microStep_withHostOf, ih]
    rfl

end Sys2Proof.Machine
end

