-- ==== Sys2Proof/Laws/Trace.lean ====
section
/-! SUPPORT. What a trace says, piece by piece: each reading of a trace (drives, conditions, quanta, samples) taken apart
at an append, and its value on the traces of the commands. -/

namespace Sys2Proof.Machine

/-! ### Readings of an appended trace -/

theorem driveAt_append (l : Line) (d : Drive) (a b : List Event) :
    driveAt l d (a ++ b) = driveAt l (driveAt l d a) b := by
  simp [driveAt, List.foldl_append]

theorem conditionsOf_append (c d : Drive) (a b : List Event) :
    conditionsOf c d (a ++ b) = conditionsOf c d a ++ conditionsOf (driveAt .clk c a) (driveAt .data d a) b := by
  induction a generalizing c d with
  | nil => rfl
  | cons e es ih =>
    rcases e with l | l | k | ⟨l, b⟩
    · cases l
      · simpa [conditionsOf, driveAt, driveAfter] using ih .floating d
      · simp only [List.cons_append, conditionsOf]
        split <;> simp [ih, driveAt, driveAfter]
    · cases l
      · simpa [conditionsOf, driveAt, driveAfter] using ih .drivenLow d
      · simp only [List.cons_append, conditionsOf]
        split <;> simp [ih, driveAt, driveAfter]
    · simpa [conditionsOf, driveAt, driveAfter] using ih c d
    · simpa [conditionsOf, driveAt, driveAfter] using ih c d

theorem sampleDrives_append (c d : Drive) (a b : List Event) :
    sampleDrives c d (a ++ b)
      = sampleDrives c d a ++ sampleDrives (driveAt .clk c a) (driveAt .data d a) b := by
  induction a generalizing c d with
  | nil => rfl
  | cons e es ih => cases e <;> simp [sampleDrives, ih, driveAt, driveAfter]

theorem quantaOf_append (a b : List Event) : quantaOf (a ++ b) = quantaOf a + quantaOf b := by
  induction a with
  | nil => simp [quantaOf]
  | cons e es ih =>
    cases e with
    | wait k => simp [quantaOf, ih, Nat.add_assoc]
    | _ => exact ih

theorem samplesOf_append (a b : List Event) : samplesOf (a ++ b) = samplesOf a ++ samplesOf b := by
  induction a with
  | nil => rfl
  | cons e es ih => cases e <;> simp [samplesOf, ih]

theorem byteReadTrace_cons (b : Bool) (bits : List Bool) :
    byteReadTrace (b :: bits) = (.sample .data b :: pulseTrace) ++ byteReadTrace bits := rfl

/-! ### Lines after the traces -/

theorem start_lines (c d : Drive) :
    driveAt .clk c startTrace = .drivenLow ∧ driveAt .data d startTrace = .drivenLow := ⟨rfl, rfl⟩

theorem rstart_lines (c d : Drive) :
    driveAt .clk c rstartTrace = .drivenLow ∧ driveAt .data d rstartTrace = .drivenLow := ⟨rfl, rfl⟩

theorem stop_lines (c d : Drive) :
    driveAt .clk c stopTrace = .floating ∧ driveAt .data d stopTrace = .floating := ⟨rfl, rfl⟩

theorem bit_clk (b : Bool) : driveAt .clk .drivenLow (bitTrace b) = .drivenLow := by
  cases b <;> rfl

theorem sendbyte_lines (v : Byte) (a : Bool) (c d : Drive) :
    driveAt .clk c (sendbyteTrace v a) = .drivenLow ∧ driveAt .data d (sendbyteTrace v a) = .floating := by
  simp only [sendbyteTrace, driveAt_append]
  constructor
  · generalize driveAt .clk _ (bitTrace (v.getLsbD 0)) = x
    cases x <;> cases a <;> rfl
  · generalize driveAt .data _ (bitTrace (v.getLsbD 0)) = x
    cases x <;> cases a <;> rfl

theorem byteRead_lines (bits : List Bool) (d : Drive) :
    driveAt .clk .drivenLow (byteReadTrace bits) = .drivenLow ∧ driveAt .data d (byteReadTrace bits) = d := by
  induction bits with
  | nil => exact ⟨rfl, rfl⟩
  | cons b bits ih =>
    rw [byteReadTrace_cons]
    simp only [driveAt_append]
    exact ih

theorem readword_lines (bits : List Bool) (c d : Drive) :
    driveAt .clk c (readwordTrace bits) = .drivenLow ∧ driveAt .data d (readwordTrace bits) = .floating := by
  simp only [readwordTrace, driveAt_append]
  exact ⟨rfl, rfl⟩

theorem attempt_lines (wa rp ra : Byte) (a : AttemptAnswers) (c d : Drive) :
    driveAt .clk c (attemptTrace wa rp ra a) = .floating ∧ driveAt .data d (attemptTrace wa rp ra a) = .floating := by
  simp only [attemptTrace, driveAt_append]
  exact ⟨(stop_lines _ .floating).1, (stop_lines .floating _).2⟩

/-! ### Conditions made by the traces -/

theorem bit_conditions (b : Bool) (d : Drive) : conditionsOf .drivenLow d (bitTrace b) = [] := by
  cases b <;> cases d <;> rfl

theorem sendbyte_conditions (v : Byte) (a : Bool) (d : Drive) :
    conditionsOf .drivenLow d (sendbyteTrace v a) = [] := by
  simp only [sendbyteTrace, conditionsOf_append, driveAt_append, bit_clk, bit_conditions, List.append_nil]
  generalize driveAt .data _ _ = x
  cases x <;> cases a <;> rfl

theorem byteRead_conditions (bits : List Bool) (d : Drive) : conditionsOf .drivenLow d (byteReadTrace bits) = [] := by
  induction bits with
  | nil => rfl
  | cons b bits ih =>
    rw [byteReadTrace_cons, conditionsOf_append]
    exact ih

theorem readword_conditions (bits : List Bool) (d : Drive) : conditionsOf .drivenLow d (readwordTrace bits) = [] := by
  simp only [readwordTrace, conditionsOf_append, driveAt_append, byteRead_conditions, (byteRead_lines _ .floating).1,
    (byteRead_lines _ _).2]
  have h : ∀ d', driveAt .clk .drivenLow [.driveLow .data, .wait 1] = .drivenLow
      ∧ driveAt .clk .drivenLow pulseTrace = .drivenLow ∧ driveAt .data d' pulseTrace = d' := fun _ => ⟨rfl, rfl, rfl⟩
  have hf : driveAt .clk .drivenLow [.float .data, .wait 1] = .drivenLow := rfl
  simp only [h .floating, (h _).2.2, hf, byteRead_conditions, (byteRead_lines _ .floating).1]
  cases d <;> rfl

theorem attempt_conditions (wa rp ra : Byte) (a : AttemptAnswers) :
    conditionsOf .floating .floating (attemptTrace wa rp ra a) = [.start, .start, .stop] := by
  have h0 : conditionsOf .floating .floating startTrace = [.start] := rfl
  have h3 : ∀ d, conditionsOf .drivenLow d rstartTrace = [.start] := by intro d; cases d <;> rfl
  have h6 : ∀ d, conditionsOf .drivenLow d stopTrace = [.stop] := by intro d; cases d <;> rfl
  simp only [attemptTrace, conditionsOf_append, driveAt_append, h0, (start_lines _ .floating).1, sendbyte_conditions,
    (sendbyte_lines _ _ _ .floating).1, (rstart_lines _ .floating).1, h3, readword_conditions,
    (readword_lines _ _ .floating).1, h6]
  rfl

/-! ### Quanta, lengths and samples of the traces -/

theorem sendbyte_counts (v : Byte) (a : Bool) :
    quantaOf (sendbyteTrace v a) = 36 ∧ (sendbyteTrace v a).length = 56 ∧ samplesOf (sendbyteTrace v a) = [a] := by
  have h : ∀ b, quantaOf (bitTrace b) = 4 ∧ (bitTrace b).length = 6 ∧ samplesOf (bitTrace b) = [] := by decide
  simp only [sendbyteTrace, quantaOf_append, samplesOf_append, List.length_append, (h _).1, (h _).2.1, (h _).2.2]
  simp [quantaOf, samplesOf]

theorem byteRead_counts (bits : List Bool) :
    quantaOf (byteReadTrace bits) = 3 * bits.length ∧ (byteReadTrace bits).length = 5 * bits.length
      ∧ samplesOf (byteReadTrace bits) = bits := by
  induction bits with
  | nil => exact ⟨rfl, rfl, rfl⟩
  | cons b bits ih =>
    rw [byteReadTrace_cons, quantaOf_append, samplesOf_append, List.length_append, ih.1, ih.2.1, ih.2.2]
    simp [quantaOf, samplesOf, pulseTrace]
    omega

theorem readword_counts (bits : List Bool) (h : bits.length = 16) :
    quantaOf (readwordTrace bits) = 57 ∧ (readwordTrace bits).length = 94 ∧ samplesOf (readwordTrace bits) = bits := by
  simp only [readwordTrace, quantaOf_append, samplesOf_append, List.length_append, (byteRead_counts _).1,
    (byteRead_counts _).2.1, (byteRead_counts _).2.2]
  simp [quantaOf, samplesOf, pulseTrace, h]

/-! ### Drives at the samples of the traces -/

theorem sendbyte_sampleDrives (v : Byte) (a : Bool) (c d : Drive) :
    sampleDrives c d (sendbyteTrace v a) = [(.floating, .floating)] := by
  have h : ∀ (b : Bool) (c d : Drive), sampleDrives c d (bitTrace b) = [] := by
    intro b c d
    cases b <;> rfl
  simp only [sendbyteTrace, sampleDrives_append, h]
  generalize driveAt .clk c _ = x
  generalize driveAt .data d _ = y
  cases x <;> cases y <;> cases a <;> rfl

theorem byteRead_sampleDrives (bits : List Bool) (d : Drive) :
    sampleDrives .drivenLow d (byteReadTrace bits) = List.replicate bits.length (.drivenLow, d) := by
  induction bits with
  | nil => rfl
  | cons b bits ih =>
    rw [byteReadTrace_cons, sampleDrives_append]
    exact congrArg (List.cons _) ih

end Sys2Proof.Machine
end

