-- ==== Sys2Proof/Tests/Slice0.lean ====
section
/-! SUPPORT. Tests and witnesses. Expected results come from 95_test_vectors.md (the vector is named) or are worked out by
hand from the rule named; each test is one decode, one step, or one meaning on a small state. A witness shows that
something meets the hypotheses of an obligation, clause by clause. -/

namespace Sys2Proof.Tests

open Sys2Proof.Machine

/-! ### Helpers -/

/-- The outcome is a next state of which `f` holds. -/
def nextHas (o : Host.Outcome State Fault Refusal) (f : State → Bool) : Bool :=
  match o with
  | .next t => f t
  | .fault _ => false
  | .refused _ => false

/-- The outcome is the refusal with that reason. -/
def refusedAs (o : Host.Outcome State Fault Refusal) (r : RefuseReason) : Bool :=
  match o with
  | .next _ => false
  | .fault _ => false
  | .refused q => q == .refuse r

/-- The decoder refuses the word with that reason. -/
def decodeRefuses (w : Word) (r : RefuseReason) : Bool :=
  match decode w with
  | .ok _ => false
  | .error q => q == r

/-- A sample stream written in digits (95_test_vectors.md). -/
def stream (bits : List Nat) : List Bool := bits.map (· == 1)

/-- The state with that sample stream ahead. -/
def answering (bits : List Nat) (s : State) : State := { s with peer := stream bits }

/-- The state whose next input is `x`. -/
def given (x : Input) (s : State) : State := { s with inputs := [x] }

/-- A session right after START, its trace cut down to the two drives. -/
def opened : State :=
  { State.reset with
    lineClk := .drivenLow, lineData := .drivenLow, sess := true, lastop := 0x1#4
    trace := [.driveLow .data, .driveLow .clk] }

/-- A session right after an acknowledged SENDBYTE. -/
def sent : State :=
  { opened with lineData := .floating, ack := true, lastop := 0x4#4, trace := opened.trace ++ [.float .data] }

/-- The block after a STOP. -/
def closed : State := { State.reset with lastop := 0x3#4, ack := true }

/-- A START in progress that has run its micro-program. -/
def startAtEnd : State :=
  { opened with cur := some .start, upc := 5, busy := true, sess := false, lastop := 0#4 }

/-- A READREG of class SOC whose first attempt has come back with 0x00FF, not valid. -/
def atCheck : State :=
  { State.reset with cur := some (.readreg 1#4 0x16#8 0x0D#8 0x17#8), upc := 281, busy := true, phase := .check, rv := 0x00FF#16 }

/-! ### Well-formedness: its one check refuses a reserved class (30_encoding.md R74) -/

theorem test_class_6_well_formed : (Instr.readreg 6#4 0x16#8 0x13#8 0x17#8).wellFormed = true := by decide

theorem test_class_7_ill_formed : (Instr.readreg 7#4 0x16#8 0x0D#8 0x17#8).wellFormed = false := by decide

theorem test_class_15_ill_formed : (Instr.readreg 15#4 0#8 0#8 0#8).wellFormed = false := by decide

/-! ### Decoding, each word written out field by field from R70: B2, B1, B0, VC, OP -/

theorem test_decode_start : decode 0b00000000_00000000_00000000_0000_0001#32 = .ok .start := by decide

theorem test_decode_rstart : decode 0b00000000_00000000_00000000_0000_0010#32 = .ok .rstart := by decide

theorem test_decode_stop : decode 0b00000000_00000000_00000000_0000_0011#32 = .ok .stop := by decide

/-- V-SB1. -/
theorem test_decode_sendbyte : decode 0b00000000_00000000_10100101_0000_0100#32 = .ok (.sendbyte 0xA5#8) := by decide

theorem test_decode_readword : decode 0b00000000_00000000_00000000_0000_0101#32 = .ok .readword := by decide

/-- V-RR1: four fields that differ. -/
theorem test_decode_readreg :
    decode 0b00010111_00001101_00010110_0001_0110#32 = .ok (.readreg 1#4 0x16#8 0x0D#8 0x17#8) := by decide

/-- V-EN1, V-EN2, V-EN3. -/
theorem test_decode_reserved_op :
    decodeRefuses 0x00000000#32 .reservedOp && decodeRefuses 0x00000007#32 .reservedOp
      && decodeRefuses 0xFFFFFFFF#32 .reservedOp = true := by decide

/-- V-EN4, V-EN5, V-EN6, V-EN7. -/
theorem test_decode_reserved_field :
    decodeRefuses 0x00000011#32 .reservedField && decodeRefuses 0x80000003#32 .reservedField
      && decodeRefuses 0x0001A504#32 .reservedField && decodeRefuses 0x0000A514#32 .reservedField = true := by decide

/-- V-EN8, V-RR11. -/
theorem test_decode_reserved_class :
    decodeRefuses 0x000000F6#32 .reservedVClass && decodeRefuses 0x170D1676#32 .reservedVClass = true := by decide

/-- V-RR5 and V-RR7: the words of batread. -/
theorem test_encode_batread :
    encode (batread Config.defaultAddresses .voltage 0x09#8) = 0x17091626#32 ∧ encode (batread Config.defaultAddresses .temp 0x08#8) = 0x17081646#32 := by decide

/-- The row's numbering: a word of 32 bits, and one given fewer. -/
theorem test_table_word :
    decodeTableWord 32 0x170D1616 = some (.readreg 1#4 0x16#8 0x0D#8 0x17#8) ∧ decodeTableWord 8 0x504 = some (.sendbyte 0#8)
      ∧ decodeTableWord 32 0 = none := by decide

/-! ### START, RSTART, STOP -/

/-- V-ST1. -/
theorem test_start_status :
    nextHas (exec .start State.reset) (fun t =>
      statusWord t == 0x00000102#32 && t.lineClk == .drivenLow && t.lineData == .drivenLow) = true := by decide

/-- V-ST3: ERR is cleared, ACK is kept. -/
theorem test_start_clears_err :
    nextHas (exec .start { State.reset with err := true, ack := true, lastop := 0x3#4 })
      (fun t => statusWord t == 0x0000010A#32) = true := by decide

/-- V-RS1. -/
theorem test_rstart_trace :
    nextHas (exec .rstart opened) (fun t =>
      statusWord t == 0x00000202#32 && t.trace == opened.trace ++ [.float .data, .wait 1, .float .clk, .wait 1,
        .driveLow .data, .wait 1, .driveLow .clk, .wait 1]) = true := by decide

/-- V-SP3: ERR is kept, both lines float. -/
theorem test_stop_keeps_err :
    nextHas (exec .stop { opened with err := true, lastop := 0x4#4 }) (fun t =>
      statusWord t == 0x00000304#32 && t.lineClk == .floating && t.lineData == .floating) = true := by decide

/-- V-ST2, V-RS2, V-SP2, V-SB7, V-RW9, V-RR10. -/
theorem test_session_refusals :
    refusedAs (exec .start opened) .session && refusedAs (exec .rstart State.reset) .session
      && refusedAs (exec .stop State.reset) .session && refusedAs (exec (.sendbyte 0x16#8) State.reset) .session
      && refusedAs (exec .readword State.reset) .session
      && refusedAs (exec (.readreg 1#4 0x16#8 0x0D#8 0x17#8) opened) .session = true := by decide

/-! ### SENDBYTE, READWORD -/

/-- V-SB1: 0xA5 goes out as F L F L L F L F, then the line is released; acknowledged. -/
theorem test_sendbyte_acknowledged :
    nextHas (exec (.sendbyte 0xA5#8) (answering [0] opened)) (fun t =>
      statusWord t == 0x0000040A#32 && t.trace.length == 2 + 56
        && pulsedDrives .drivenLow (t.trace.drop 2) == [.floating, .drivenLow, .floating, .drivenLow, .drivenLow, .floating,
          .drivenLow, .floating, .floating]) = true := by decide +kernel

/-- V-SB3: not acknowledged. -/
theorem test_sendbyte_nacked :
    nextHas (exec (.sendbyte 0xFF#8) (answering [1] opened)) (fun t => statusWord t == 0x00000406#32) = true := by
  decide +kernel

/-- V-RW4: the low byte comes first. -/
theorem test_readword_value :
    nextHas (exec .readword (answering [0, 0, 1, 1, 0, 1, 0, 0, 0, 0, 0, 1, 0, 0, 1, 0] sent)) (fun t =>
      t.rxdata == 0x1234#16 && statusWord t == 0x0000050A#32) = true := by decide +kernel

/-- V-RW8. -/
theorem test_readword_after_start : refusedAs (exec .readword opened) .lineState = true := by decide

/-! ### READREG -/

/-- V-RR1: one attempt. -/
theorem test_readreg_one_attempt :
    nextHas (exec (.readreg 1#4 0x16#8 0x0D#8 0x17#8)
        (answering [0, 0, 0, 0, 1, 0, 1, 0, 0, 0, 0, 0, 0, 0, 0, 0, 0, 0, 0] State.reset))
      (fun t => t.rxdata == 0x0050#16 && statusWord t == 0x00000668#32) = true := by decide +kernel

/-- V-RR7: FAILED = 1 with VALID = 1, the second value returned. -/
theorem test_readreg_two_attempts :
    nextHas (exec (.readreg 4#4 0x16#8 0x08#8 0x17#8)
        (answering ([0, 1, 0] ++ [1, 0, 1, 0, 0, 0, 0, 0] ++ [0, 0, 0, 0, 1, 0, 1, 1]
          ++ [0, 1, 0] ++ [1, 0, 1, 0, 0, 0, 0, 1] ++ [0, 0, 0, 0, 1, 0, 1, 1]) State.reset))
      (fun t => t.rxdata == 0x0BA1#16 && statusWord t == 0x000006BC#32) = true := by decide +kernel

/-! ### Validity classes (95_test_vectors.md section 5) -/

theorem test_valid_status_soc :
    [0x0000#16, 0x00C0#16, 0xFFFE#16, 0xFFFF#16].map (valid Config.defaultBounds 0#4) = [true, true, true, false]
      ∧ [0#16, 149#16, 150#16, 0xFFFF#16].map (valid Config.defaultBounds 1#4) = [true, true, false, false] := by decide

theorem test_valid_voltage :
    [0#16, 6000#16, 6001#16, 21999#16, 22000#16].map (valid Config.defaultBounds 2#4) = [false, false, true, true, false] := by decide

theorem test_valid_current :
    [0x0BB7#16, 0x0BB8#16, 0x7FFF#16, 0x8000#16, 0xFFFE#16, 0xFFFF#16].map (valid Config.defaultBounds 3#4)
      = [true, false, false, true, true, false] := by decide

theorem test_valid_temp_tte_ttf :
    [3131#16, 3132#16].map (valid Config.defaultBounds 4#4) = [true, false] ∧ [0#16, 1000#16, 1001#16].map (valid Config.defaultBounds 5#4) = [true, true, false]
      ∧ [0#16, 1#16, 1000#16, 1001#16].map (valid Config.defaultBounds 6#4) = [false, true, true, false] := by decide

/-- D21, D22: the bounds an integer division would give, as another instance: 7000 and 3140. -/
theorem test_valid_other_bounds :
    [6999#16, 7000#16].map (valid { Config.defaultBounds with voltLo := 6999 } 2#4) = [false, true]
      ∧ [3139#16, 3140#16].map (valid { Config.defaultBounds with tempMin := 3140 } 4#4) = [true, false] := by decide

/-- R163, R158: CHECK goes by the instance's bounds, 6500 mV being valid only at the default ones. -/
theorem test_check_other_bounds :
    let s := { atCheck with cur := some (.readreg 2#4 0x16#8 0x09#8 0x17#8), rv := 6500#16 }
    nextHas (step s) (fun t => t.phase == .done) = true
      ∧ nextHas (step { s with bounds := { Config.defaultBounds with voltLo := 6999 } }) (fun t => t.phase == .run2) = true := by
  decide

/-! ### Host, engine, reset -/

/-- V-HI2, V-HI3. -/
theorem test_reads_at_reset :
    nextHas (step (given (.read 0x4 4) State.reset)) (fun t => t.reads == [0x00000000#32])
      && nextHas (step (given (.read 0x8 4) State.reset)) (fun t => t.reads == [0x0000FFFF#32]) = true := by decide

/-- V-HI5, V-HI6, V-HI7: refused, nothing read. -/
theorem test_bad_reads :
    ([(0xC, 4), (0x2, 4), (0x4, 2)].all fun a =>
      nextHas (step (given (.read a.1 a.2) State.reset)) (fun t => t.reads == [] && t.refusals == [.access])) = true := by
  decide

/-- V-EN10: RF_BUSY comes before the decoder. -/
theorem test_write_while_busy :
    nextHas (step (given (.write 0x0 4 0x00000000#32) startAtEnd)) (fun t => t.refusals == [.busy] && t.busy) = true := by
  decide

/-- V-EN9: accepted; then the engine takes the first micro-operation (R22). -/
theorem test_write_issues :
    nextHas (step (given (.write 0x0 4 0x00000006#32) State.reset)) (fun t =>
      t.busy && t.cur == some (.readreg 0#4 0#8 0#8 0#8) && t.phase == .run1
        && nextHas (step t) (fun u => u.upc == 1 && u.trace.length == 1)) = true := by decide

/-- CHECK of an invalid value is followed by RUN2 (R158). -/
theorem test_check_retries :
    nextHas (step atCheck) (fun t => t.phase == .run2 && t.att == .second && t.upc == 281 && t.trace == []) = true := by
  decide

/-- R202: reset in the middle of a command floats both lines and sends no STOP. -/
theorem test_reset_while_busy :
    nextHas (step (given .reset startAtEnd)) (fun t => t == State.reset) = true := by decide

/-- P5, first line: the run goes on with the mark. -/
theorem test_refused_command_goes_on :
    nextHas (step (given (.cmd 0x00001604#32) State.reset)) (fun t => t.refusals == [.session] && !t.conforming) = true := by
  decide

/-- A command placed as the next one is run by the very next step. -/
theorem test_fetched_word_runs :
    nextHas (step (State.reset.withFetchWord 32 0x00000001)) (fun t => t.lastop == 0x1#4 && t.inputs == []) = true := by
  decide

/-! ### Text and tables -/

/-- R77: either case, decimal or hexadecimal, a class by name or by number. -/
theorem test_assemble_lines :
    assemble Config.defaultAddresses "start".toList = some [.start] ∧ assemble Config.defaultAddresses "SendByte 165".toList = some [.sendbyte 0xA5#8]
      ∧ assemble Config.defaultAddresses "readreg SOC, 0x16, 0x0D, 0x17".toList = some [.readreg 1#4 0x16#8 0x0D#8 0x17#8]
      ∧ assemble Config.defaultAddresses "readreg 6, 22, 19, 23".toList = some [.readreg 6#4 0x16#8 0x13#8 0x17#8] := by decide +kernel

/-- R77: out of range is an error, never truncated. -/
theorem test_assemble_errors :
    assemble Config.defaultAddresses "sendbyte 256".toList = none ∧ assemble Config.defaultAddresses "readreg 7, 0, 0, 0".toList = none
      ∧ assemble Config.defaultAddresses "stop 1".toList = none := by decide +kernel

/-- R78. -/
theorem test_assemble_pseudo :
    assemble Config.defaultAddresses "batread SOC, 0x0D".toList = some [.readreg 1#4 0x16#8 0x0D#8 0x17#8]
      ∧ assemble Config.defaultAddresses "rawread 0x16, 0x09, 0x17".toList
        = some [.start, .sendbyte 0x16#8, .sendbyte 0x09#8, .rstart, .sendbyte 0x17#8, .readword, .stop] := by decide +kernel

/-- R78 at other addresses than the defaults. -/
theorem test_batread_other_addresses :
    batread { writeAddr := 0x2C#8, readAddr := 0x2D#8 } .ttf 0x13#8 = .readreg 6#4 0x2C#8 0x13#8 0x2D#8 := by decide

/-- R59 against R74: the class meant for each pointer. -/
theorem test_peer_registers :
    Config.peerRegisters.map (fun r => (r.pointer, vcOfClass r.vclass))
      = [(0x16#8, 0#4), (0x09#8, 2#4), (0x0A#8, 3#4), (0x08#8, 4#4), (0x0D#8, 1#4), (0x12#8, 5#4), (0x13#8, 6#4)] := by
  decide

/-- R62, R7 and R21. -/
theorem test_small_definitions :
    registerByte 0x170D1616#32 3 = 0x17#8 ∧ concatBytes 0x12#8 0x34#8 = 0x1234#16 ∧ wireLevel .floating false = true
      ∧ wireLevel .floating true = false ∧ wireLevel .drivenLow false = false := by decide

/-! ### Witnesses: states and operands that meet the hypotheses of the obligations, clause by clause -/

/-- Some next state has the property, stated so that a witness can name it. -/
theorem next_of_nextHas {o : Host.Outcome State Fault Refusal} {f : State → Bool} (h : nextHas o f = true) :
    ∃ t, o = .next t ∧ f t = true := by
  cases o with
  | next t => exact ⟨t, rfl, h⟩
  | fault r => cases h
  | refused r => cases h

theorem opened_inv : Machine.Inv opened :=
  ⟨rfl, rfl, by decide, by decide, fun _ => ⟨rfl, fun h => absurd h (by decide), fun _ => ⟨rfl, by decide⟩⟩, fun h => absurd h (by decide)⟩

theorem sent_inv : Machine.Inv sent :=
  ⟨rfl, rfl, by decide, by decide, fun _ => ⟨rfl, fun h => absurd h (by decide), fun _ => ⟨rfl, by decide⟩⟩, fun h => absurd h (by decide)⟩

theorem startAtEnd_inv : Machine.Inv startAtEnd :=
  ⟨rfl, rfl, by decide, by decide, fun h => absurd h (by decide),
    fun _ => ⟨.start, rfl, rfl, ⟨rfl, by decide⟩, fun h => absurd h (by decide), fun _ => ⟨rfl, by decide⟩⟩⟩

theorem atCheck_inv : Machine.Inv atCheck :=
  ⟨rfl, rfl, by decide, by decide, fun h => absurd h (by decide),
    fun _ => ⟨_, rfl, rfl, .inr (.inl ⟨rfl, rfl, rfl⟩), fun _ => ⟨rfl, rfl⟩, fun h => absurd h (by decide)⟩⟩

theorem closed_inv (bits : List Nat) : Machine.Inv (answering bits closed) :=
  ⟨rfl, rfl, (by decide : (0#2).toNat ≤ 2), (by decide : (3#4).toNat ≤ 6), fun _ => ⟨rfl, fun _ => ⟨rfl, rfl⟩, nofun⟩,
    nofun⟩

/-- Every clause, at the ends of the reserved ranges and of the classes. -/
theorem witness_DecodeFollowsTheOpcodeMap :
    (opField 0x00000000#32).toNat = 0 ∧ 7 ≤ (opField 0x00000007#32).toNat ∧ 7 ≤ (opField 0xFFFFFFFF#32).toNat
      ∧ opField 0x00000001#32 = 0x1#4 ∧ opField 0x00000002#32 = 0x2#4 ∧ opField 0x80000003#32 = 0x3#4
      ∧ opField 0x0000A504#32 = 0x4#4 ∧ opField 0x00000005#32 = 0x5#4
      ∧ opField 0x17131666#32 = 0x6#4 ∧ (vcField 0x17131666#32).toNat = 6 ∧ (vcField 0x170D1676#32).toNat = 7 := by decide

theorem witness_DecodeOfEncodeIsTheCommand : (Instr.readreg 6#4 0xFF#8 0x00#8 0x17#8).wellFormed = true := by decide

theorem witness_EncodeOfDecodeIsTheWord : decode 0x17131666#32 = .ok (.readreg 6#4 0x16#8 0x13#8 0x17#8) := by decide

/-- A command that runs and one that is refused, as input and as fetched word. -/
theorem witness_StepRunsTheDecodedCommand :
    (given (.cmd 0x00000003#32) opened).inputs = .cmd 0x00000003#32 :: [] ∧ opened.busy = false
      ∧ decode 0x00000003#32 = .ok .stop ∧ (∃ t, exec .stop opened = .next t)
      ∧ exec .stop State.reset = .refused (.refuse .session) ∧ Instr.stop.wellFormed = true :=
  ⟨rfl, rfl, by decide, ⟨_, rfl⟩, rfl, rfl⟩

/-- No refusal, and each reason, at the first reserved class. -/
theorem witness_CommandRefusedForTheFirstReason :
    (∃ t, exec .start State.reset = .next t) ∧ exec .start startAtEnd = .refused (.refuse .busy)
      ∧ exec .readword opened = .refused (.refuse .lineState)
      ∧ exec (.readreg 7#4 0#8 0#8 0#8) opened = .refused (.refuse .reservedVClass)
      ∧ exec (.readreg 6#4 0#8 0#8 0#8) opened = .refused (.refuse .session) :=
  ⟨⟨_, rfl⟩, rfl, rfl, rfl, rfl⟩

/-- With and without a session; the least and the greatest class. -/
theorem witness_SessionRuleOfTheCommands :
    opened.busy = false ∧ opened.sess = true ∧ State.reset.busy = false ∧ State.reset.sess = false
      ∧ (0#4).toNat ≤ 6 ∧ (6#4).toNat ≤ 6 := by decide

theorem witness_StartBeginsFromAnIdleBus :
    (opened.busy = false ∧ opened.sess = true)
      ∧ (Machine.Inv (answering [] closed) ∧ closed.busy = false ∧ closed.sess = false) :=
  ⟨⟨rfl, rfl⟩, closed_inv [], rfl, rfl⟩

theorem witness_ReadwordNeedsFloatingData :
    (State.reset.busy = false ∧ State.reset.sess = false) ∧ (opened.busy = false ∧ opened.sess = true ∧ opened.lineData = .drivenLow)
      ∧ (sent.sess = true ∧ sent.lineData = .floating) ∧ (∃ t, exec (.sendbyte 0x00#8) sent = .next t)
      ∧ (∃ t, exec .start State.reset = .next t) ∧ (∃ t, exec .rstart sent = .next t)
      ∧ (Machine.Inv sent ∧ ∃ t, exec .readword sent = .next t) :=
  ⟨⟨rfl, rfl⟩, ⟨rfl, rfl, rfl⟩, ⟨rfl, rfl⟩, ⟨_, rfl⟩, ⟨_, rfl⟩, ⟨_, rfl⟩, sent_inv, ⟨_, rfl⟩⟩

theorem witness_CommandWordRefused :
    (given (.cmd 0x00000001#32) startAtEnd).inputs = .cmd 0x00000001#32 :: [] ∧ startAtEnd.busy = true
      ∧ State.reset.busy = false ∧ decode 0x00000000#32 = .error .reservedOp := by decide

theorem witness_StartOpensASession : State.reset.busy = false ∧ State.reset.sess = false ∧ opened.sess = true := by decide

theorem witness_RstartRepeatsTheStart : sent.busy = false ∧ sent.sess = true ∧ State.reset.sess = false := by decide

theorem witness_StopClosesTheSession : sent.busy = false ∧ sent.sess = true ∧ State.reset.sess = false := by decide

theorem witness_SendbyteCompletes :
    (answering [1] opened).busy = false ∧ (answering [1] opened).sess = true ∧ State.reset.sess = false := by decide

/-- An acknowledged and a nacked byte. -/
theorem witness_AcknowledgeSampleDecides :
    (answering [0] opened).sess = true ∧ nextSample (answering [0] opened) = false
      ∧ nextSample (answering [1] opened) = true := by decide

theorem witness_SendbyteShowsItsBitsMsbFirst : opened.busy = false ∧ opened.sess = true ∧ Machine.Inv opened :=
  ⟨rfl, rfl, opened_inv⟩

theorem witness_ReadwordCompletes :
    sent.busy = false ∧ sent.sess = true ∧ sent.lineData = .floating ∧ State.reset.sess = false
      ∧ opened.sess = true ∧ opened.lineData = .drivenLow := by decide

theorem witness_ReadwordAssemblesItsSamples : sent.busy = false ∧ sent.sess = true ∧ sent.lineData = .floating := by decide

/-- The least and the greatest class; a first attempt that suffices and one that does not. -/
theorem witness_ReadregCompletes :
    (0#4).toNat ≤ 6 ∧ (6#4).toNat ≤ 6 ∧ State.reset.busy = false ∧ State.reset.sess = false ∧ opened.sess = true
      ∧ oneAttempt 0#4 (answering (List.replicate 19 0) State.reset) = true
      ∧ oneAttempt 6#4 (answering (List.replicate 19 0) State.reset) = false := by decide

theorem witness_SilentPeerGetsTwoTransactions :
    Machine.Inv (answering (List.replicate 38 1) closed) ∧ closed.busy = false ∧ closed.sess = false
      ∧ answers 38 (answering (List.replicate 38 1) closed) = List.replicate 38 true ∧ (6#4).toNat ≤ 6
      ∧ closed.bounds = Config.defaultBounds :=
  ⟨closed_inv _, rfl, rfl, by decide, by decide, rfl⟩

theorem witness_RawreadIsOneAttempt :
    State.reset.busy = false ∧ State.reset.sess = false ∧ State.reset.inputs = [] := by decide

theorem witness_SamplesTakenWithDataFloating :
    (Machine.Inv sent ∧ (∃ t, exec (.sendbyte 0xA5#8) sent = .next t) ∧ ∃ t, exec .readword sent = .next t)
      ∧ (Machine.Inv (answering [] closed)
        ∧ ∃ t, exec (.readreg 6#4 0x16#8 0x13#8 0x17#8) (answering [] closed) = .next t) :=
  ⟨⟨sent_inv, ⟨_, rfl⟩, ⟨_, rfl⟩⟩, closed_inv [], ⟨_, rfl⟩⟩

theorem witness_CommandsMakeExactlyTheirConditions :
    (Machine.Inv (answering [] closed) ∧ (∃ t, exec .start (answering [] closed) = .next t)
        ∧ ∃ t, exec (.readreg 0#4 0x16#8 0x16#8 0x17#8) (answering [] closed) = .next t)
      ∧ (Machine.Inv sent ∧ (∃ t, exec .rstart sent = .next t) ∧ (∃ t, exec .stop sent = .next t)
        ∧ (∃ t, exec (.sendbyte 0x17#8) sent = .next t) ∧ ∃ t, exec .readword sent = .next t) :=
  ⟨⟨closed_inv [], ⟨_, rfl⟩, ⟨_, rfl⟩⟩, sent_inv, ⟨_, rfl⟩, ⟨_, rfl⟩, ⟨_, rfl⟩, ⟨_, rfl⟩⟩

theorem witness_DurationsAndCountsOfTheCommands :
    (∃ t, exec .start State.reset = .next t) ∧ (∃ t, exec .rstart sent = .next t) ∧ (∃ t, exec .stop sent = .next t)
      ∧ (∃ t, exec (.sendbyte 0x17#8) sent = .next t) ∧ (∃ t, exec .readword sent = .next t)
      ∧ ∃ t, exec (.readreg 6#4 0x16#8 0x13#8 0x17#8) State.reset = .next t :=
  ⟨⟨_, rfl⟩, ⟨_, rfl⟩, ⟨_, rfl⟩, ⟨_, rfl⟩, ⟨_, rfl⟩, ⟨_, rfl⟩⟩

theorem witness_SentinelInvalidInEveryClass : (0#4).toNat ≤ 6 ∧ (6#4).toNat ≤ 6 := by decide

/-- A step that changes SESS, one that changes ERR, ACK and RXDATA at once, and one for the results of READREG. -/
theorem witness_OnlyTheirCommandsWriteTheFlags :
    (∃ t, step (given (.cmd 0x00000001#32) State.reset) = .next t ∧ (t.sess != State.reset.sess) = true)
      ∧ (∃ t, step (given .engine { sent with cur := some (.sendbyte 0#8), upc := 56, busy := true, ackSample := true })
          = .next t ∧ (t.err != sent.err && t.ack != sent.ack) = true)
      ∧ (∃ t, step (given .engine { atCheck with phase := .done, att := .second, rf := true, rv := 0x0040#16 }) = .next t
          ∧ (t.rxdata != State.reset.rxdata && t.failed && t.valid && t.attempts == 2#2) = true)
      ∧ ¬ resetNext (given .engine atCheck) := by
  refine ⟨next_of_nextHas ?_, next_of_nextHas ?_, next_of_nextHas ?_, ?_⟩
  · decide
  · decide
  · decide
  · rintro ⟨rest, h⟩
    cases h

/-- ERR cleared by a START and by the reset input. -/
theorem witness_ErrClearedOnlyByAStart :
    (∃ t, step (given (.cmd 0x00000001#32) { State.reset with err := true }) = .next t ∧ (!t.err) = true)
      ∧ (∃ t, step (given .reset { State.reset with err := true }) = .next t ∧ (!t.err) = true) :=
  ⟨next_of_nextHas (by decide), next_of_nextHas (by decide)⟩

theorem witness_LastopIsTheCompletedOpcode :
    (∃ t, exec .start State.reset = .next t)
      ∧ (∃ t, step startAtEnd = .next t ∧ (!t.busy && t.lastop != startAtEnd.lastop) = true) ∧ startAtEnd.busy = true
      ∧ ¬ resetNext startAtEnd :=
  ⟨⟨_, rfl⟩, next_of_nextHas (by decide), rfl, by rintro ⟨rest, h⟩; cases h⟩

theorem witness_CmdReadsAsZero : (given (.read 0x0 4) startAtEnd).inputs = .read 0x0 4 :: [] := rfl

/-- The least unmapped offset, an odd one, another width; the two registers that are read only. -/
theorem witness_BadAccessesRefused :
    (0xC ≤ 0xC) ∧ ((0x2 : Nat) % 4 ≠ 0) ∧ ((2 : Nat) ≠ 4) ∧ ((0x4 : Nat) = 0x4 ∨ (0x4 : Nat) = 0x8)
      ∧ ((0x8 : Nat) = 0x4 ∨ (0x8 : Nat) = 0x8) := by decide

theorem witness_StatusAndRxdataReads : sent.busy = false ∧ startAtEnd.busy = true := by decide

theorem witness_LayoutOfTheHostRegisters :
    sent.busy = false ∧ ((0x4 : Nat) = 0x4 ∨ (0x4 : Nat) = 0x8) ∧ ((0x8 : Nat) = 0x4 ∨ (0x8 : Nat) = 0x8) := by decide

theorem witness_CmdWriteIssuesTheCommand :
    (given (.write 0x0 4 0x00000001#32) opened).inputs = .write 0x0 4 0x00000001#32 :: [] ∧ startAtEnd.busy = true
      ∧ decode 0x00000000#32 = .error .reservedOp ∧ decode 0x00000001#32 = .ok .start
      ∧ exec .start opened = .refused (.refuse .session) ∧ ∃ t, exec .start State.reset = .next t :=
  ⟨rfl, rfl, by decide, by decide, rfl, ⟨_, rfl⟩⟩

theorem witness_RefusedAccessesWriteNothing :
    ∃ t, step (given (.write 0x4 4 0#32) sent) = .next t ∧ (t.refusals != sent.refusals) = true :=
  next_of_nextHas (by decide)

/-- The first and the last bit of SR; the line a micro-operation is not about. -/
theorem witness_MicroOperationsDoOneThing : (0 : Nat) < 16 ∧ (15 : Nat) < 16 ∧ Line.data ≠ Line.clk := by decide

/-- The engine's turn by want of an input and by an input; a micro-operation, CHECK, a completion ahead. -/
theorem witness_EngineRunsOneMicroOperationAStep :
    (Machine.Inv startAtEnd ∧ startAtEnd.busy = true ∧ engineNext startAtEnd)
      ∧ (Machine.Inv atCheck ∧ atCheck.busy = true ∧ engineNext atCheck) ∧ engineNext (given .engine atCheck) :=
  ⟨⟨startAtEnd_inv, rfl, .inl rfl⟩, ⟨atCheck_inv, rfl, .inl rfl⟩, .inr ⟨[], rfl⟩⟩

theorem witness_CompletionFollowsEveryLineAction :
    (∃ t, step startAtEnd = .next t ∧ (!t.busy) = true) ∧ startAtEnd.busy = true ∧ ¬ resetNext startAtEnd :=
  ⟨next_of_nextHas (by decide), rfl, by rintro ⟨rest, h⟩; cases h⟩

theorem witness_IdleBlockHoldsStill : opened.busy = false ∧ opened.inputs = [] := by decide

theorem witness_WrittenCommandRunsToExec :
    (Instr.readreg 6#4 0x16#8 0x13#8 0x17#8).wellFormed = true ∧ State.reset.busy = false ∧ State.reset.phase = .idle
      ∧ State.reset.inputs = [] ∧ ∃ t, exec (.readreg 6#4 0x16#8 0x13#8 0x17#8) State.reset = .next t :=
  ⟨rfl, rfl, rfl, rfl, ⟨_, rfl⟩⟩

theorem witness_EveryCommandEnds : Machine.Inv atCheck ∧ atCheck.busy = true ∧ atCheck.inputs = [] :=
  ⟨atCheck_inv, rfl, rfl⟩

theorem witness_ResetGivesEveryValue :
    resetNext (given .reset startAtEnd)
      ∧ ∃ t, step (given .reset startAtEnd) = .next t :=
  ⟨⟨[], rfl⟩, ⟨_, rfl⟩⟩

theorem witness_ResetLeavesTheWorldOutside : (given .reset startAtEnd).inputs = .reset :: [] := rfl

/-- An instance with another lower bound: a step and a command. -/
theorem witness_ParametersAreFixed :
    (∃ t, step { atCheck with bounds := { Config.defaultBounds with voltLo := 6999 } } = .next t)
      ∧ ∃ t, exec (.readreg 2#4 0x16#8 0x09#8 0x17#8)
          { State.reset with bounds := { Config.defaultBounds with voltLo := 6999 } } = .next t :=
  ⟨⟨_, rfl⟩, ⟨_, rfl⟩⟩

theorem witness_FirstCommandAfterReset :
    Instr.start.wellFormed = true ∧ (Instr.readreg 6#4 0x16#8 0x13#8 0x17#8).wellFormed = true
      ∧ Instr.readword.wellFormed = true := by decide

/-- With BUSY = 0, with a command at its end, and at CHECK. -/
theorem witness_StepKeepsTheInvariant :
    (Machine.Inv sent ∧ ∃ t, step sent = .next t) ∧ (Machine.Inv startAtEnd ∧ ∃ t, step startAtEnd = .next t)
      ∧ (Machine.Inv atCheck ∧ ∃ t, step atCheck = .next t) :=
  ⟨⟨sent_inv, ⟨_, rfl⟩⟩, ⟨startAtEnd_inv, ⟨_, rfl⟩⟩, atCheck_inv, ⟨_, rfl⟩⟩

theorem witness_MachineNeverStops : Machine.Inv (answering [] closed) ∧ Machine.Inv startAtEnd ∧ Machine.Inv atCheck :=
  ⟨closed_inv [], startAtEnd_inv, atCheck_inv⟩

end Sys2Proof.Tests
end

