-- ==== Sys2Proof/Proofs/Scope.lean ====
section
/-! PROOFS. The statements of 00_scope.md: the micro-operations (R9 to R12), the engine's turn (R14, R15), the parameters
(R5). -/

namespace Sys2Proof.Machine

/-! ### Micro-operations -/

/-- A line after `Float` of a line (R9). -/
theorem floatLine_line (l l' : Line) (s : State) :
    (floatLine l s).line l' = if l' = l then .floating else s.line l' := by
  cases l <;> cases l' <;> rfl

/-- A line after `DriveLow` of a line (R10). -/
theorem driveLowLine_line (l l' : Line) (s : State) :
    (driveLowLine l s).line l' = if l' = l then .drivenLow else s.line l' := by
  cases l <;> cases l' <;> rfl

/-- `Float` writes the two drives and the trace only. -/
theorem floatLine_frame (l : Line) (s : State) :
    floatLine l s = { s with
      lineClk := (floatLine l s).lineClk, lineData := (floatLine l s).lineData, trace := s.trace ++ [.float l] } := by
  cases l <;> rfl

/-- `DriveLow` writes the two drives and the trace only. -/
theorem driveLowLine_frame (l : Line) (s : State) :
    driveLowLine l s = { s with
      lineClk := (driveLowLine l s).lineClk, lineData := (driveLowLine l s).lineData
      trace := s.trace ++ [.driveLow l] } := by
  cases l <;> rfl

/-- Settles O37, from the rules of the line operations and of a bit put in SR. -/
theorem microOperationsDoOneThing : Obligations.MicroOperationsDoOneThing := by
  refine ⟨fun l s => ⟨?_, ?_, ?_, floatLine_frame l s, driveLowLine_frame l s⟩, fun _ _ => rfl, fun _ => rfl, ?_⟩
  · exact (floatLine_line l l s).trans (if_pos rfl)
  · exact (driveLowLine_line l l s).trans (if_pos rfl)
  · intro l' hl
    exact ⟨(floatLine_line l l' s).trans (if_neg hl), (driveLowLine_line l l' s).trans (if_neg hl)⟩
  · intro i s hi
    exact ⟨putBit s.sr i (nextSample s), fun j => putBit_getLsbD s.sr i j (nextSample s) hi, rfl⟩

/-! ### The engine's turn -/

/-- With BUSY = 1 the engine's turn, by want of an input or by the input `engine`, is an engine step. -/
theorem step_of_engineNext {s : State} (hn : engineNext s) (hb : s.busy = true) :
    ∃ rest, step s = engineStep { s with inputs := rest } := by
  rcases hn with hi | ⟨rest, hi⟩
  · have hs : { s with inputs := [] } = s := by rw [← hi]
    exact ⟨[], by rw [hs, step_engine hi hb]⟩
  · exact ⟨rest, by simp [step, hi, engineTurn, hb]⟩

/-- With a command in CUR an engine step answers a next state. -/
theorem engineStep_answers {i : Instr} {s : State} (hc : s.cur = some i) : ∃ t, engineStep s = .next t := by
  simp only [engineStep, hc]
  cases s.phase <;> exact ⟨_, rfl⟩

/-- What an engine step does to the trace, the lines, `upc`, CUR and BUSY (R14; log 2). -/
theorem engineStep_event {s t : State} (hb : s.busy = true) (h : engineStep s = .next t) :
    (∃ e, t.trace = s.trace ++ [e] ∧ t.upc = s.upc + 1 ∧ t.busy = true ∧ t.cur = s.cur)
      ∨ (t.trace = s.trace ∧ t.upc = s.upc ∧ t.lineClk = s.lineClk ∧ t.lineData = s.lineData
        ∧ ((s.phase = .check ∧ t.busy = true) ∨ t.busy = false)) := by
  obtain ⟨i, -, ⟨m, -, rfl⟩ | ⟨hp, rfl⟩ | rfl⟩ := engineStep_cases h
  · obtain ⟨e, htrace, -, -, hupc⟩ := microStep_event s m
    have ha := apart_microStep s m
    exact .inl ⟨e, htrace, hupc, ha.busy.trans hb, ha.cur⟩
  · obtain ⟨-, hbusy, htrace, hclk, hdata, hupc, -⟩ := checkStep_facts i s
    exact .inr ⟨htrace, hupc, hclk, hdata, .inl ⟨hp, hbusy.trans hb⟩⟩
  · obtain ⟨-, hbusy, htrace, hclk, hdata, hupc⟩ := finish_facts i s
    exact .inr ⟨htrace, hupc, hclk, hdata, .inr hbusy⟩

/-- Settles O38: the invariant puts a command in CUR, and its engine step is one of three kinds. -/
theorem engineRunsOneMicroOperationAStep : Obligations.EngineRunsOneMicroOperationAStep := by
  intro s hinv hb hn
  obtain ⟨i, hc, -⟩ := hinv.running hb
  obtain ⟨rest, hstep⟩ := step_of_engineNext hn hb
  obtain ⟨t, ht⟩ := engineStep_answers (s := { s with inputs := rest }) hc
  exact ⟨t, hstep.trans ht, engineStep_event (s := { s with inputs := rest }) hb ht⟩

/-! ### The parameters -/

@[simp] theorem microStep_bounds (s : State) (m : MicroStep) : (microStep s m).bounds = s.bounds :=
  (apart_microStep s m).bounds

@[simp] theorem checkRetry_bounds (vc : BitVec 4) (s : State) : (checkRetry vc s).bounds = s.bounds := by
  unfold checkRetry
  split <;> rfl

@[simp] theorem checkStep_bounds (i : Instr) (s : State) : (checkStep i s).bounds = s.bounds := by
  cases i with
  | readreg vc wa rp ra => exact checkRetry_bounds vc s
  | _ => rfl

@[simp] theorem finish_bounds (i : Instr) (s : State) : (finish i s).bounds = s.bounds := by
  cases i <;> rfl

@[simp] theorem accept_bounds (i : Instr) (s : State) : (accept i s).bounds = s.bounds := by
  cases i <;> rfl

@[simp] theorem hostRead_bounds (off width : Nat) (s : State) : (hostRead off width s).bounds = s.bounds := by
  have h : hostRead off width s = _ := hostRead_sameBlock off width s
  rw [h]

@[simp] theorem runWhole_bounds (i : Instr) (s : State) : (runWhole i s).bounds = s.bounds := by
  cases i with
  | start => rw [runWhole_start]
  | rstart => rw [runWhole_rstart]
  | stop => rw [runWhole_stop]
  | sendbyte v => rw [runWhole_sendbyte]
  | readword => rw [runWhole_readword]
  | readreg vc wa rp ra => rw [runWhole_readreg]

theorem engineStep_bounds {s t : State} (h : engineStep s = .next t) : t.bounds = s.bounds := by
  obtain ⟨i, -, ⟨m, -, rfl⟩ | ⟨-, rfl⟩ | rfl⟩ := engineStep_cases h
  · exact microStep_bounds s m
  · exact checkStep_bounds i s
  · exact finish_bounds i s

theorem exec_bounds {i : Instr} {s t : State} (h : exec i s = .next t) : t.bounds = s.bounds := by
  obtain ⟨-, -, rfl⟩ := exec_next.mp h
  exact (runWhole_bounds i _).trans (issue_bounds s i)

/-- No agent's step writes the bounds (R5; 70_reset_and_hazards.md R200 for the reset input). -/
theorem step_bounds {s t : State} (h : step s = .next t) : t.bounds = s.bounds := by
  obtain ⟨rest, -, hidle | hengine | hrefused | hcmd | hread | hwrite | hreset⟩ := step_cases h
  · obtain ⟨-, -, rfl⟩ := hidle
    rfl
  · obtain ⟨-, -, he⟩ := hengine
    exact (engineStep_bounds he :)
  · obtain ⟨r, rfl⟩ := hrefused
    exact refuse_bounds _ r
  · obtain ⟨w, i, -, -, -, he⟩ := hcmd
    exact (exec_bounds he :)
  · obtain ⟨off, width, -, rfl⟩ := hread
    exact hostRead_bounds off width _
  · obtain ⟨off, width, w, i, -, -, -, -, rfl⟩ := hwrite
    exact accept_bounds i _
  · obtain ⟨-, rfl⟩ := hreset
    exact applyReset_bounds _

/-- Settles O49, from what each agent's step and each command's run do to the bounds. -/
theorem parametersAreFixed : Obligations.ParametersAreFixed :=
  ⟨fun _ _ => step_bounds, fun _ _ _ => exec_bounds⟩

end Sys2Proof.Machine
end

/-! PROOFS. The statements of 10_state.md: the host registers (R33, R34), who writes the flags, the results and LASTOP
(R24 to R31), the bus conditions of the commands (R38), and that every step keeps the invariant (R20, R38, R39). -/

namespace Sys2Proof.Machine

/-! ### The host registers -/

/-- The flags in STATUS (R33). -/
theorem statusWord_flags (s : State) :
    (statusWord s).getLsbD 0 = s.busy ∧ (statusWord s).getLsbD 1 = s.sess ∧ (statusWord s).getLsbD 2 = s.err
      ∧ (statusWord s).getLsbD 3 = s.ack ∧ (statusWord s).getLsbD 4 = s.failed
      ∧ (statusWord s).getLsbD 5 = s.valid := by
  simp only [statusWord, BitVec.getLsbD_append]
  simp

/-- The fields of STATUS above the flags (R33), read bit by bit. -/
theorem statusWord_fields (s : State) :
    (statusWord s).extractLsb' 6 2 = s.attempts ∧ (statusWord s).extractLsb' 8 4 = s.lastop
      ∧ (statusWord s).extractLsb' 12 20 = 0#20 := by
  refine ⟨?_, ?_, ?_⟩ <;>
    · apply BitVec.eq_of_getLsbD_eq
      intro i hi
      simp only [statusWord, BitVec.getLsbD_append, BitVec.getLsbD_extractLsb']
      interval_cases i <;> simp

/-- The fields of the RXDATA register (R34). -/
theorem rxdataWord_fields (s : State) :
    (rxdataWord s).extractLsb' 0 16 = s.rxdata ∧ (rxdataWord s).extractLsb' 16 16 = 0#16 := by
  constructor
  · rw [rxdataWord, BitVec.zeroExtend_eq_setWidth, BitVec.extractLsb'_setWidth_of_le (by decide),
      BitVec.extractLsb'_eq_self]
  · ext i hi
    simp [rxdataWord]

/-- A read of STATUS with BUSY = 0 (20_memory.md R55). -/
theorem hostRead_status {s : State} (hb : s.busy = false) : hostRead 0x4 4 s = s.returned (statusWord s) := by
  simp [hostRead, mappedAccess, cmdOffset, statusOffset, hb]

/-- A read of RXDATA with BUSY = 0 (20_memory.md R55). -/
theorem hostRead_rxdata {s : State} (hb : s.busy = false) : hostRead 0x8 4 s = s.returned (rxdataWord s) := by
  simp [hostRead, mappedAccess, cmdOffset, statusOffset, hb]

/-- Only CMD can be written (20_memory.md R54). -/
theorem hostWrite_of_ne_cmd {off : Nat} (hoff : off ≠ cmdOffset) (width : Nat) (v : Word) (s : State) :
    hostWrite off width v s = s.refuse .access := by
  simp [hostWrite, hoff]

/-- Settles O34, from the fields of the two words and what the host's accesses do. -/
theorem layoutOfTheHostRegisters : Obligations.LayoutOfTheHostRegisters := by
  refine ⟨fun s => ?_, by decide, by decide, fun s rest hb => ⟨?_, ?_⟩, fun s off v rest hoff => ?_⟩
  · obtain ⟨hbusy, hsess, herr, hack, hfailed, hvalid⟩ := statusWord_flags s
    obtain ⟨hattempts, hlastop, hreserved⟩ := statusWord_fields s
    exact ⟨hbusy, hsess, herr, hack, hfailed, hvalid, hattempts, hlastop, hreserved, rxdataWord_fields s⟩
  · exact congrArg Host.Outcome.next (hostRead_status (s := { s with inputs := rest }) hb)
  · exact congrArg Host.Outcome.next (hostRead_rxdata (s := { s with inputs := rest }) hb)
  · have hne : off ≠ cmdOffset := by rcases hoff with rfl | rfl <;> decide
    exact congrArg Host.Outcome.next (hostWrite_of_ne_cmd hne 4 v _)

/-! ### Single commands and READREG -/

/-- A command is a READREG or one of the five single ones. -/
theorem readreg_or_single (i : Instr) : (∃ vc wa rp ra, i = .readreg vc wa rp ra) ∨ i.opcode ≠ 0x6#4 := by
  cases i with
  | readreg vc wa rp ra => exact .inl ⟨vc, wa, rp, ra, rfl⟩
  | _ => exact .inr (by simp [Instr.opcode])

/-- Every opcode is at most 6 (30_encoding.md R71). -/
theorem opcode_le (i : Instr) : i.opcode.toNat ≤ 6 := by
  cases i <;> simp [Instr.opcode]

/-- A single command is its micro-program and its completion. -/
theorem runWhole_of_single {i : Instr} (h : i.opcode ≠ 0x6#4) (s : State) :
    runWhole i s = finish i (runSteps (program i) s) := by
  cases i with
  | readreg => exact absurd rfl h
  | _ => rfl

/-- Every command ends with its completion step. -/
theorem runWhole_ends_with_finish (i : Instr) (s : State) : ∃ u, runWhole i s = finish i u := by
  cases i <;> exact ⟨_, rfl⟩

/-- A single command is accepted by the latch alone (20_memory.md R56). -/
theorem accept_of_single {i : Instr} (h : i.opcode ≠ 0x6#4) (s : State) : accept i s = s.issue i := by
  cases i with
  | readreg => exact absurd rfl h
  | _ => rfl

/-! ### Who writes the flags and the results -/

/-- From `s` to `t` the flags and the results change only as 10_state.md R24 to R30 allow, if the commands at work are
those of `acts`; `err_kept` is the sharper rule for ERR (R25). -/
structure ResultsOwned (acts : Instr → Prop) (s t : State) : Prop where
  sess : t.sess = s.sess ∨ ∃ i, acts i ∧ (i = .start ∨ i = .stop ∨ i.opcode = 0x6#4)
  err : t.err = s.err ∨ ∃ i, acts i ∧ (i = .start ∨ i.opcode = 0x4#4 ∨ i.opcode = 0x6#4)
  err_kept : s.err = true → t.err = true ∨ ∃ i, acts i ∧ (i = .start ∨ i.opcode = 0x6#4)
  ack : t.ack = s.ack ∨ ∃ i, acts i ∧ (i.opcode = 0x4#4 ∨ i.opcode = 0x6#4)
  rxdata : t.rxdata = s.rxdata ∨ ∃ i, acts i ∧ (i = .readword ∨ i.opcode = 0x6#4)
  failed : t.failed = s.failed ∨ ∃ i, acts i ∧ i.opcode = 0x6#4
  valid : t.valid = s.valid ∨ ∃ i, acts i ∧ i.opcode = 0x6#4
  attempts : t.attempts = s.attempts ∨ ∃ i, acts i ∧ i.opcode = 0x6#4

theorem kept_or_trans {α : Type} {a b c : α} {p : Prop} (h : b = a ∨ p) (k : c = b ∨ p) : c = a ∨ p :=
  h.elim (fun e => k.imp_left (·.trans e)) .inr

section
variable {acts : Instr → Prop} {i : Instr} {s t u : State}

theorem ResultsOwned.trans (h : ResultsOwned acts s t) (k : ResultsOwned acts t u) : ResultsOwned acts s u where
  sess := kept_or_trans h.sess k.sess
  err := kept_or_trans h.err k.err
  err_kept := fun he => (h.err_kept he).elim k.err_kept .inr
  ack := kept_or_trans h.ack k.ack
  rxdata := kept_or_trans h.rxdata k.rxdata
  failed := kept_or_trans h.failed k.failed
  valid := kept_or_trans h.valid k.valid
  attempts := kept_or_trans h.attempts k.attempts

/-- Nothing written needs no owner. -/
theorem ResultsOwned.of_kept (sess : t.sess = s.sess) (err : t.err = s.err) (ack : t.ack = s.ack)
    (rxdata : t.rxdata = s.rxdata) (failed : t.failed = s.failed) (valid : t.valid = s.valid)
    (attempts : t.attempts = s.attempts) : ResultsOwned acts s t :=
  ⟨.inl sess, .inl err, fun he => .inl (err.trans he), .inl ack, .inl rxdata, .inl failed, .inl valid,
    .inl attempts⟩

/-- A READREG may write all of them. -/
theorem ResultsOwned.of_readreg (hi : acts i) (hop : i.opcode = 0x6#4) : ResultsOwned acts s t where
  sess := .inr ⟨i, hi, .inr (.inr hop)⟩
  err := .inr ⟨i, hi, .inr (.inr hop)⟩
  err_kept := fun _ => .inr ⟨i, hi, .inr hop⟩
  ack := .inr ⟨i, hi, .inr hop⟩
  rxdata := .inr ⟨i, hi, .inr hop⟩
  failed := .inr ⟨i, hi, hop⟩
  valid := .inr ⟨i, hi, hop⟩
  attempts := .inr ⟨i, hi, hop⟩

theorem ResultsOwned.of_sameBlock (h : sameBlock s t) : ResultsOwned acts s t := by
  rw [h]
  exact .of_kept rfl rfl rfl rfl rfl rfl rfl

/-- The micro-operations of a single command write no flag and no result. -/
theorem microStep_results (hi : acts i) {m : MicroStep} (hm : m ∈ program i) :
    ResultsOwned acts s (microStep s m) := by
  by_cases hop : i.opcode = 0x6#4
  · exact .of_readreg hi hop
  · obtain ⟨hsess, herr, hack, -⟩ := microStep_flags i hop m hm s
    have ha := apart_microStep s m
    exact .of_kept hsess herr hack ha.rxdata ha.failed ha.valid ha.attempts

theorem runSteps_results (hi : acts i) (p : List MicroStep) (hp : p ⊆ program i) (s : State) :
    ResultsOwned acts s (runSteps p s) := by
  induction p generalizing s with
  | nil => exact .of_sameBlock rfl
  | cons m p ih =>
    obtain ⟨hm, hrest⟩ := List.cons_subset.mp hp
    exact (microStep_results hi hm).trans (ih hrest _)

theorem checkStep_results (hi : acts i) : ResultsOwned acts s (checkStep i s) := by
  cases i with
  | readreg => exact .of_readreg hi rfl
  | _ => exact .of_sameBlock rfl

/-- The completion steps, command by command: RSTART's writes nothing of this. -/
theorem finish_results (hi : acts i) : ResultsOwned acts s (finish i s) := by
  cases i with
  | start =>
    exact {
      sess := .inr ⟨_, hi, .inl rfl⟩, err := .inr ⟨_, hi, .inl rfl⟩, err_kept := fun _ => .inr ⟨_, hi, .inl rfl⟩
      ack := .inl rfl, rxdata := .inl rfl, failed := .inl rfl, valid := .inl rfl, attempts := .inl rfl }
  | rstart => exact .of_kept rfl rfl rfl rfl rfl rfl rfl
  | stop =>
    exact {
      sess := .inr ⟨_, hi, .inr (.inl rfl)⟩, err := .inl rfl, err_kept := .inl
      ack := .inl rfl, rxdata := .inl rfl, failed := .inl rfl, valid := .inl rfl, attempts := .inl rfl }
  | sendbyte v =>
    exact {
      sess := .inl rfl, err := .inr ⟨_, hi, .inr (.inl rfl)⟩
      err_kept := fun he => .inl (Bool.or_eq_true_iff.mpr (.inl he))
      ack := .inr ⟨_, hi, .inl rfl⟩
      rxdata := .inl rfl, failed := .inl rfl, valid := .inl rfl, attempts := .inl rfl }
  | readword =>
    exact {
      sess := .inl rfl, err := .inl rfl, err_kept := .inl, ack := .inl rfl, rxdata := .inr ⟨_, hi, .inl rfl⟩
      failed := .inl rfl, valid := .inl rfl, attempts := .inl rfl }
  | readreg => exact .of_readreg hi rfl

theorem accept_results : ResultsOwned acts s (accept i s) := by
  cases i <;> exact .of_kept rfl rfl rfl rfl rfl rfl rfl

theorem exec_results (hi : acts i) (h : exec i s = .next t) : ResultsOwned acts s t := by
  obtain ⟨-, -, rfl⟩ := exec_next.mp h
  by_cases hop : i.opcode = 0x6#4
  · exact .of_readreg hi hop
  · rw [runWhole_of_single hop]
    exact (ResultsOwned.of_kept (s := s) (t := s.issue i) rfl rfl rfl rfl rfl rfl rfl).trans
      ((runSteps_results hi _ (List.Subset.refl _) _).trans (finish_results hi))

theorem engineStep_results (hi : ∀ i, s.cur = some i → acts i) (h : engineStep s = .next t) :
    ResultsOwned acts s t := by
  obtain ⟨i, hc, ⟨m, hm, rfl⟩ | ⟨-, rfl⟩ | rfl⟩ := engineStep_cases h
  · exact microStep_results (hi i hc) (List.mem_of_getElem? hm)
  · exact checkStep_results (hi i hc)
  · exact finish_results (hi i hc)

end

/-- Over a step that is not the reset input's, the command it acts for owns what changes. -/
theorem step_results {s t : State} (h : step s = .next t) (hr : ¬ resetNext s) :
    ResultsOwned (actsFor · s) s t := by
  obtain ⟨rest, -, hidle | hengine | hrefused | hcmd | hread | hwrite | hreset⟩ := step_cases h
  all_goals refine (ResultsOwned.of_sameBlock (t := { s with inputs := rest }) rfl).trans ?_
  · obtain ⟨-, -, rfl⟩ := hidle
    exact .of_sameBlock rfl
  · obtain ⟨hn, hb, he⟩ := hengine
    exact engineStep_results (fun i hc => .inr ⟨hn, hb, hc⟩) he
  · obtain ⟨r, rfl⟩ := hrefused
    exact .of_sameBlock rfl
  · obtain ⟨w, i, hin, hb, hd, he⟩ := hcmd
    exact exec_results (.inl ⟨w, rest, hin, hb, hd⟩) he
  · obtain ⟨off, width, -, rfl⟩ := hread
    exact .of_sameBlock (hostRead_sameBlock off width _)
  · obtain ⟨off, width, w, i, -, -, -, -, rfl⟩ := hwrite
    exact accept_results
  · exact absurd ⟨rest, hreset.1⟩ hr

/-- Settles O28: what changed has an owner, and the step acts for it. -/
theorem onlyTheirCommandsWriteTheFlags : Obligations.OnlyTheirCommandsWriteTheFlags := by
  intro s t h hr
  have k := step_results h hr
  exact ⟨k.sess.resolve_left, k.err.resolve_left, k.ack.resolve_left, k.rxdata.resolve_left, k.failed.resolve_left,
    k.valid.resolve_left, k.attempts.resolve_left⟩

/-- Settles O29: where the reset input is not taken, only a START or a READREG does not keep a set ERR. -/
theorem errClearedOnlyByAStart : Obligations.ErrClearedOnlyByAStart := by
  intro s t h hs ht
  by_cases hr : resetNext s
  · exact .inl hr
  · exact .inr (((step_results h hr).err_kept hs).resolve_left (by simp [ht]))

/-! ### LASTOP -/

theorem exec_lastop {i : Instr} {s t : State} (h : exec i s = .next t) : t.lastop = i.opcode ∧ t.busy = false := by
  obtain ⟨-, -, rfl⟩ := exec_next.mp h
  obtain ⟨u, hu⟩ := runWhole_ends_with_finish i (s.issue i)
  obtain ⟨hlastop, hbusy, -⟩ := finish_facts i u
  rw [hu]
  exact ⟨hlastop, hbusy⟩

/-- An engine step completes the command in CUR, or leaves LASTOP and BUSY alone. -/
theorem engineStep_lastop {s t : State} (h : engineStep s = .next t) :
    (t.lastop = s.lastop ∧ t.busy = s.busy) ∨ ∃ i, s.cur = some i ∧ t.lastop = i.opcode ∧ t.busy = false := by
  obtain ⟨i, hc, ⟨m, -, rfl⟩ | ⟨-, rfl⟩ | rfl⟩ := engineStep_cases h
  · exact .inl ⟨(apart_microStep s m).lastop, (apart_microStep s m).busy⟩
  · obtain ⟨hlastop, hbusy, -⟩ := checkStep_facts i s
    exact .inl ⟨hlastop, hbusy⟩
  · obtain ⟨hlastop, hbusy, -⟩ := finish_facts i s
    exact .inr ⟨i, hc, hlastop, hbusy⟩

/-- Accepting a command leaves LASTOP alone and sets BUSY (20_memory.md R56). -/
theorem accept_lastop (i : Instr) (s : State) : (accept i s).lastop = s.lastop ∧ (accept i s).busy = true := by
  cases i <;> exact ⟨rfl, rfl⟩

theorem sameBlock_lastop {s t : State} (h : sameBlock s t) : t.lastop = s.lastop ∧ t.busy = s.busy := by
  rw [h]
  exact ⟨rfl, rfl⟩

/-- A step that is not the reset input's completes the command it acts for, or leaves LASTOP alone and does not clear
BUSY. -/
theorem step_lastop {s t : State} (h : step s = .next t) (hr : ¬ resetNext s) :
    (t.lastop = s.lastop ∧ (s.busy = true → t.busy = true))
      ∨ ∃ i, actsFor i s ∧ t.lastop = i.opcode ∧ t.busy = false := by
  obtain ⟨rest, -, hidle | hengine | hrefused | hcmd | hread | hwrite | hreset⟩ := step_cases h
  · obtain ⟨-, -, rfl⟩ := hidle
    exact .inl ⟨rfl, id⟩
  · obtain ⟨hn, hb, he⟩ := hengine
    obtain ⟨hlastop, hbusy⟩ | ⟨i, hc, hend⟩ := engineStep_lastop he
    · exact .inl ⟨hlastop, hbusy.trans⟩
    · exact .inr ⟨i, .inr ⟨hn, hb, hc⟩, hend⟩
  · obtain ⟨r, rfl⟩ := hrefused
    exact .inl ⟨rfl, id⟩
  · obtain ⟨w, i, hin, hb, hd, he⟩ := hcmd
    exact .inr ⟨i, .inl ⟨w, rest, hin, hb, hd⟩, exec_lastop he⟩
  · obtain ⟨off, width, -, rfl⟩ := hread
    obtain ⟨hlastop, hbusy⟩ := sameBlock_lastop (hostRead_sameBlock off width { s with inputs := rest })
    exact .inl ⟨hlastop, hbusy.trans⟩
  · obtain ⟨off, width, w, i, -, -, -, -, rfl⟩ := hwrite
    obtain ⟨hlastop, hbusy⟩ := accept_lastop i { s with inputs := rest }
    exact .inl ⟨hlastop, fun _ => hbusy⟩
  · exact absurd ⟨rest, hreset.1⟩ hr

/-- With BUSY = 1 a step acts for no command but the one in CUR. -/
theorem actsFor_cur {i : Instr} {s : State} (h : actsFor i s) (hb : s.busy = true) : s.cur = some i := by
  obtain ⟨w, rest, -, hidle, -⟩ | ⟨-, -, hc⟩ := h
  · exact absurd (hidle.symm.trans hb) (by decide)
  · exact hc

/-- Settles O30: LASTOP is written where a command completes, and nowhere else. -/
theorem lastopIsTheCompletedOpcode : Obligations.LastopIsTheCompletedOpcode := by
  refine ⟨fun _ _ _ => exec_lastop, fun s t h hr => ?_, rfl⟩
  obtain ⟨hlastop, hbusy⟩ | ⟨i, hi, hlastop, hbusy⟩ := step_lastop h hr
  · exact ⟨fun hb ht => absurd (ht.symm.trans (hbusy hb)) (by decide), fun hne => absurd hlastop hne⟩
  · exact ⟨fun hb _ => ⟨i, actsFor_cur hi hb, hlastop⟩, fun _ => ⟨hbusy, i, hi, hlastop⟩⟩

/-! ### Preconditions -/

theorem needsSession_eq_none {s : State} : needsSession s = none ↔ s.sess = true := by
  simp [needsSession]

theorem needsNoSession_eq_none {s : State} : needsNoSession s = none ↔ s.sess = false := by
  simp [needsNoSession]

/-- The session part of READWORD's precondition (41_byte_transfer.md R139). -/
theorem sess_of_readword_accepted {s : State} (h : readwordRefusal s = none) : s.sess = true := by
  unfold readwordRefusal at h
  split at h
  · cases h
  · exact needsSession_eq_none.mp ‹_›

/-- READREG's precondition (42_register_access.md R159, 60_exceptions.md R185). -/
theorem readregRefusal_eq_none {vc : BitVec 4} {s : State} :
    readregRefusal vc s = none ↔ vcLegal vc = true ∧ s.sess = false := by
  unfold readregRefusal
  cases hv : vcLegal vc <;> simp [needsNoSession_eq_none]

/-- A command that is not refused is well formed. -/
theorem wellFormed_of_accepted {i : Instr} {s : State} (h : refusalOf i s = none) : i.wellFormed = true := by
  cases i with
  | readreg => exact (readregRefusal_eq_none.mp h).1
  | _ => rfl

/-! ### The trace of a command -/

/-- The events a command leaves, from the state it was issued in. -/
def commandTrace (i : Instr) (s : State) : List Event :=
  match i with
  | .start => startTrace
  | .rstart => rstartTrace
  | .stop => stopTrace
  | .sendbyte v => sendbyteTrace v (nextSample s)
  | .readword => readwordTrace (answers 16 s)
  | .readreg vc wa rp ra => readregTrace vc wa rp ra s

theorem runWhole_trace (i : Instr) (s : State) : (runWhole i s).trace = s.trace ++ commandTrace i s := by
  cases i with
  | start => rw [runWhole_start]; rfl
  | rstart => rw [runWhole_rstart]; rfl
  | stop => rw [runWhole_stop]; rfl
  | sendbyte v => rw [runWhole_sendbyte]; rfl
  | readword => rw [runWhole_readword]; rfl
  | readreg vc wa rp ra => rw [runWhole_readreg]; rfl

/-- An attempt or two leave both lines floating. -/
theorem readreg_lines (vc : BitVec 4) (wa rp ra : Byte) (s : State) (c d : Drive) :
    driveAt .clk c (readregTrace vc wa rp ra s) = .floating
      ∧ driveAt .data d (readregTrace vc wa rp ra s) = .floating := by
  unfold readregTrace
  split
  · exact attempt_lines wa rp ra _ c d
  · simp only [driveAt_append]
    exact attempt_lines wa rp ra _ _ _

/-- The lines after a command are what its events make of them (R20). -/
theorem runWhole_lines (i : Instr) (s : State) :
    (runWhole i s).lineClk = driveAt .clk s.lineClk (commandTrace i s)
      ∧ (runWhole i s).lineData = driveAt .data s.lineData (commandTrace i s) := by
  cases i with
  | start => rw [runWhole_start]; exact (start_lines _ _).imp .symm .symm
  | rstart => rw [runWhole_rstart]; exact (rstart_lines _ _).imp .symm .symm
  | stop => rw [runWhole_stop]; exact (stop_lines _ _).imp .symm .symm
  | sendbyte v => rw [runWhole_sendbyte]; exact (sendbyte_lines v _ _ _).imp .symm .symm
  | readword => rw [runWhole_readword]; exact (readword_lines _ _ _).imp .symm .symm
  | readreg vc wa rp ra => rw [runWhole_readreg]; exact (readreg_lines vc wa rp ra s _ _).imp .symm .symm

/-! ### The bus conditions of a command -/

theorem rstart_conditions (d : Drive) : conditionsOf .drivenLow d rstartTrace = [.start] := by
  cases d <;> rfl

theorem stop_conditions (d : Drive) : conditionsOf .drivenLow d stopTrace = [.stop] := by
  cases d <;> rfl

theorem readreg_conditions (vc : BitVec 4) (wa rp ra : Byte) (s : State) :
    conditionsOf .floating .floating (readregTrace vc wa rp ra s)
      = if oneAttempt vc s then [.start, .start, .stop] else [.start, .start, .stop, .start, .start, .stop] := by
  unfold readregTrace
  split
  · exact attempt_conditions wa rp ra _
  · obtain ⟨hclk, hdata⟩ := attempt_lines wa rp ra (attemptAnswers s) .floating .floating
    rw [conditionsOf_append, hclk, hdata, attempt_conditions, attempt_conditions]
    rfl

/-- With BUSY = 0 and no session the invariant has both lines floating (R38). -/
theorem Inv.lines_float {s : State} (hinv : Inv s) (hb : s.busy = false) (hs : s.sess = false) :
    s.lineClk = .floating ∧ s.lineData = .floating :=
  (hinv.idle hb).2.1 hs

/-- With BUSY = 0 and a session the invariant has CLK driven low (R38). -/
theorem Inv.clk_low {s : State} (hinv : Inv s) (hb : s.busy = false) (hs : s.sess = true) : s.lineClk = .drivenLow :=
  ((hinv.idle hb).2.2 hs).1

/-- Settles O24: the lines that the invariant and the precondition give the command, then the conditions its trace makes
from them. -/
theorem commandsMakeExactlyTheirConditions : Obligations.CommandsMakeExactlyTheirConditions := by
  intro i s t hinv h
  obtain ⟨hb, hr, rfl⟩ := exec_next.mp h
  refine ⟨commandTrace i (s.issue i), runWhole_trace i (s.issue i), ?_⟩
  cases i with
  | start =>
    obtain ⟨hclk, hdata⟩ := hinv.lines_float hb (needsNoSession_eq_none.mp hr)
    simp only [hclk, hdata]
    rfl
  | rstart =>
    simp only [hinv.clk_low hb (needsSession_eq_none.mp hr)]
    exact rstart_conditions _
  | stop =>
    simp only [hinv.clk_low hb (needsSession_eq_none.mp hr)]
    exact stop_conditions _
  | sendbyte v =>
    simp only [hinv.clk_low hb (needsSession_eq_none.mp hr)]
    exact sendbyte_conditions v _ _
  | readword =>
    simp only [hinv.clk_low hb (sess_of_readword_accepted hr)]
    exact readword_conditions _ _
  | readreg vc wa rp ra =>
    obtain ⟨hclk, hdata⟩ := hinv.lines_float hb (readregRefusal_eq_none.mp hr).2
    simp only [hclk, hdata]
    exact readreg_conditions vc wa rp ra _

/-! ### The invariant: lines and trace -/

/-- The lines of `t` are those of `s` moved by the events that `t` has after the trace of `s`. -/
def MovedByTrace (s t : State) : Prop :=
  ∃ es, t.trace = s.trace ++ es ∧ t.lineClk = driveAt .clk s.lineClk es ∧ t.lineData = driveAt .data s.lineData es

/-- No event, no line moved. -/
theorem MovedByTrace.of_kept {s t : State} (htrace : t.trace = s.trace) (hclk : t.lineClk = s.lineClk)
    (hdata : t.lineData = s.lineData) : MovedByTrace s t :=
  ⟨[], by rw [htrace, List.append_nil], hclk, hdata⟩

theorem microStep_moved (s : State) (m : MicroStep) : MovedByTrace s (microStep s m) := by
  obtain ⟨e, htrace, hclk, hdata, -⟩ := microStep_event s m
  exact ⟨[e], htrace, hclk, hdata⟩

theorem runWhole_moved (i : Instr) (s : State) : MovedByTrace s (runWhole i s) :=
  ⟨commandTrace i s, runWhole_trace i s, runWhole_lines i s⟩

theorem Inv.lines_of_moved {s t : State} (hinv : Inv s) (h : MovedByTrace s t) :
    t.lineClk = driveAt .clk .floating t.trace ∧ t.lineData = driveAt .data .floating t.trace := by
  obtain ⟨es, htrace, hclk, hdata⟩ := h
  rw [htrace, driveAt_append, driveAt_append, ← hinv.clk_is_trace, ← hinv.data_is_trace]
  exact ⟨hclk, hdata⟩

/-- The invariant of a state with BUSY = 0, reached from one that meets it. -/
theorem Inv.of_idle {s t : State} (hinv : Inv s) (hm : MovedByTrace s t) (ha : t.attempts.toNat ≤ 2)
    (hl : t.lastop.toNat ≤ 6) (hb : t.busy = false) (hidle : t.phase = .idle ∧ idleLines t) : Inv t where
  clk_is_trace := (hinv.lines_of_moved hm).1
  data_is_trace := (hinv.lines_of_moved hm).2
  attempts_le := ha
  lastop_le := hl
  idle := fun _ => hidle
  running := fun h => absurd (hb.symm.trans h) (by decide)

/-- The invariant of a state with BUSY = 1, reached from one that meets it. -/
theorem Inv.of_running {s t : State} {i : Instr} (hinv : Inv s) (hm : MovedByTrace s t) (ha : t.attempts = s.attempts)
    (hl : t.lastop = s.lastop) (hb : t.busy = true) (hc : t.cur = some i) (hw : i.wellFormed = true)
    (hp : placed i t) (hlines : idleLines (runOut i t)) : Inv t where
  clk_is_trace := (hinv.lines_of_moved hm).1
  data_is_trace := (hinv.lines_of_moved hm).2
  attempts_le := ha ▸ hinv.attempts_le
  lastop_le := hl ▸ hinv.lastop_le
  idle := fun h => absurd (hb.symm.trans h) (by decide)
  running := fun _ => ⟨i, hc, hw, hp, hlines⟩

/-! ### The invariant: the world outside the block -/

theorem runOut_withHostOf (i : Instr) (s u : State) : runOut i (s.withHostOf u) = (runOut i s).withHostOf u := by
  have hrem : remaining i (s.withHostOf u) = remaining i s := rfl
  have hfin : ∀ v : State, finish i (v.withHostOf u) = (finish i v).withHostOf u := by
    intro v
    cases i <;> rfl
  rw [runOut, hrem, runSteps_withHostOf, hfin]
  rfl

/-- The invariant is about the block alone. -/
theorem Inv.of_sameBlock {s t : State} (hinv : Inv s) (h : sameBlock s t) : Inv t := by
  have ht : t = s.withHostOf t := h
  rw [ht]
  refine ⟨hinv.clk_is_trace, hinv.data_is_trace, hinv.attempts_le, hinv.lastop_le, hinv.idle, fun hb => ?_⟩
  obtain ⟨i, hc, hw, hp, hlines⟩ := hinv.running hb
  refine ⟨i, hc, hw, hp, ?_⟩
  rw [runOut_withHostOf]
  exact hlines

/-- The reset input gives the invariant whatever it comes from (70_reset_and_hazards.md R202). -/
theorem applyReset_inv (s : State) : Inv s.applyReset where
  clk_is_trace := rfl
  data_is_trace := rfl
  attempts_le := Nat.zero_le 2
  lastop_le := Nat.zero_le 6
  idle := fun _ => ⟨rfl, fun _ => ⟨rfl, rfl⟩, nofun⟩
  running := nofun

/-! ### The invariant: a command run whole -/

/-- R38 without a session. -/
theorem idleLines_of_no_session {s : State} (hs : s.sess = false) (hc : s.lineClk = .floating)
    (hd : s.lineData = .floating) : idleLines s :=
  ⟨fun _ => ⟨hc, hd⟩, fun h => absurd (hs.symm.trans h) (by decide)⟩

/-- R38 in a session, with DATA as 41_byte_transfer.md R139 says. -/
theorem idleLines_of_session {s : State} (hs : s.sess = true) (hc : s.lineClk = .drivenLow)
    (hd : s.lineData = .floating ↔ s.lastop = 0x4#4 ∨ s.lastop = 0x5#4) : idleLines s :=
  ⟨fun h => absurd (h.symm.trans hs) (by decide), fun _ => ⟨hc, hd⟩⟩

/-- An accepted command run whole leaves the lines as R38 says. -/
theorem runWhole_idleLines {i : Instr} {s : State} (hr : refusalOf i s = none) :
    idleLines (runWhole i (s.issue i)) := by
  cases i with
  | start =>
    rw [runWhole_start]
    exact idleLines_of_session rfl rfl (by simp)
  | rstart =>
    rw [runWhole_rstart]
    exact idleLines_of_session (needsSession_eq_none.mp hr :) rfl (by simp)
  | stop =>
    rw [runWhole_stop]
    exact idleLines_of_no_session rfl rfl rfl
  | sendbyte v =>
    rw [runWhole_sendbyte]
    exact idleLines_of_session (needsSession_eq_none.mp hr :) rfl (by simp)
  | readword =>
    rw [runWhole_readword]
    exact idleLines_of_session (sess_of_readword_accepted hr :) rfl (by simp)
  | readreg vc wa rp ra =>
    rw [runWhole_readreg]
    exact idleLines_of_no_session rfl rfl rfl

/-- A READREG completed after an attempt leaves both lines floating and no session. -/
theorem finish_attempt_idleLines (vc : BitVec 4) (wa rp ra : Byte) (s : State) :
    idleLines (finish (.readreg vc wa rp ra) (runSteps (attemptBody wa rp ra) s)) := by
  rw [runSteps_attemptBody]
  exact idleLines_of_no_session rfl rfl rfl

theorem attemptNo_bits_le (n : AttemptNo) : n.bits.toNat ≤ 2 := by
  cases n <;> decide

/-- Completion writes ATTEMPTS with 1 or 2, or not at all (R30). -/
theorem finish_attempts_le (i : Instr) {s : State} (h : s.attempts.toNat ≤ 2) : (finish i s).attempts.toNat ≤ 2 := by
  cases i with
  | readreg vc wa rp ra => exact attemptNo_bits_le s.att
  | _ => exact h

/-- After its completion a READREG has the retry state machine in IDLE, a single command leaves it where it is. -/
theorem finish_phase (i : Instr) {s : State} (hp : placed i s) :
    (finish i s).phase = .idle := by
  cases i with
  | readreg vc wa rp ra => rfl
  | _ => exact hp.1

theorem runWhole_attempts_le (i : Instr) {s : State} (h : s.attempts.toNat ≤ 2) :
    (runWhole i s).attempts.toNat ≤ 2 := by
  rcases readreg_or_single i with ⟨vc, wa, rp, ra, rfl⟩ | hop
  · exact attemptNo_bits_le _
  · rw [runWhole_of_single hop]
    exact finish_attempts_le i ((apart_runSteps _ s).attempts ▸ h)

theorem runWhole_phase (i : Instr) {s : State} (h : s.phase = .idle) : (runWhole i s).phase = .idle := by
  cases i with
  | start => rw [runWhole_start]; exact h
  | rstart => rw [runWhole_rstart]; exact h
  | stop => rw [runWhole_stop]; exact h
  | sendbyte v => rw [runWhole_sendbyte]; exact h
  | readword => rw [runWhole_readword]; exact h
  | readreg vc wa rp ra => rw [runWhole_readreg]

/-- A command that answers a next state keeps the invariant. -/
theorem exec_inv {i : Instr} {s t : State} (hinv : Inv s) (h : exec i s = .next t) : Inv t := by
  obtain ⟨hlastop, hbusy⟩ := exec_lastop h
  obtain ⟨hb, hr, rfl⟩ := exec_next.mp h
  exact hinv.of_idle (runWhole_moved i (s.issue i)) (runWhole_attempts_le i hinv.attempts_le)
    (hlastop ▸ opcode_le i) hbusy ⟨runWhole_phase i (hinv.idle hb).1, runWhole_idleLines hr⟩

/-! ### The invariant: a command in progress -/

theorem remaining_idle {s : State} (i : Instr) (h : s.phase = .idle) : remaining i s = (program i).drop s.upc := by
  simp only [remaining, h]

/-- In RUN1 what remains is of the first attempt. -/
theorem remaining_run1 {s : State} (vc : BitVec 4) (wa rp ra : Byte) (h : s.phase = .run1) :
    remaining (.readreg vc wa rp ra) s = (attemptBody wa rp ra).drop s.upc := by
  simp only [remaining, h, program]
  rw [List.take_left' (attemptBody_length wa rp ra)]

/-- In RUN2 what remains is of the second attempt. -/
theorem remaining_run2 {s : State} (vc : BitVec 4) (wa rp ra : Byte) {k : Nat} (h : s.phase = .run2)
    (hk : s.upc = 281 + k) : remaining (.readreg vc wa rp ra) s = (attemptBody wa rp ra).drop k := by
  simp only [remaining, h, program, hk]
  rw [← List.drop_drop, List.drop_left' (attemptBody_length wa rp ra)]

theorem remaining_ended {s : State} (i : Instr) (h : s.phase = .check ∨ s.phase = .done) : remaining i s = [] := by
  rcases h with h | h <;> simp only [remaining, h]

theorem runOut_of_remaining_nil {i : Instr} {s : State} (h : remaining i s = []) : runOut i s = finish i s := by
  rw [runOut, h, runSteps_nil]

/-- A READREG at the start of an attempt, run out. -/
theorem runOut_attempt_idleLines {vc : BitVec 4} {wa rp ra : Byte} {s : State}
    (h : s.phase = .run1 ∧ s.upc = 0 ∨ s.phase = .run2 ∧ s.upc = 281) :
    idleLines (runOut (.readreg vc wa rp ra) s) := by
  have hrem : remaining (.readreg vc wa rp ra) s = attemptBody wa rp ra := by
    obtain ⟨hp, hu⟩ | ⟨hp, hu⟩ := h
    · rw [remaining_run1 vc wa rp ra hp, hu, List.drop_zero]
    · rw [remaining_run2 (k := 0) vc wa rp ra hp hu, List.drop_zero]
  rw [runOut, hrem]
  exact finish_attempt_idleLines vc wa rp ra s

/-- Where a single command can be. -/
theorem placed_single {i : Instr} (hop : i.opcode ≠ 0x6#4) (s : State) :
    placed i s ↔ s.phase = .idle ∧ s.upc ≤ (program i).length := by
  rw [program_length]
  cases i with
  | readreg => exact absurd rfl hop
  | _ => rfl

/-- An accepted command is at the start of its program and, run out, leaves the lines as R38 says. -/
theorem accept_inv {i : Instr} {s : State} (hinv : Inv s) (hb : s.busy = false) (hr : refusalOf i s = none) :
    Inv (accept i s) := by
  have hw := wellFormed_of_accepted hr
  rcases readreg_or_single i with ⟨vc, wa, rp, ra, rfl⟩ | hop
  · refine hinv.of_running (.of_kept rfl rfl rfl) rfl rfl rfl rfl hw (.inl ⟨rfl, Nat.zero_lt_succ 280, rfl⟩) ?_
    exact runOut_attempt_idleLines (.inl ⟨rfl, rfl⟩)
  · rw [accept_of_single hop]
    have hph : (s.issue i).phase = .idle := (hinv.idle hb).1
    refine hinv.of_running (.of_kept rfl rfl rfl) rfl rfl rfl rfl hw
      ((placed_single hop _).mpr ⟨hph, Nat.zero_le _⟩) ?_
    rw [runOut, remaining_idle i hph, issue_upc, List.drop_zero, ← runWhole_of_single hop]
    exact runWhole_idleLines hr

/-- The command is at the micro-operation `m`, and after it at a place with one less to run. -/
structure RunsNext (i : Instr) (s : State) (m : MicroStep) : Prop where
  listed : (program i)[s.upc]? = some m
  running : s.phase = .idle ∨ s.phase = .run1 ∨ s.phase = .run2
  after : placed i (microStep s m) ∧ remaining i s = m :: remaining i (microStep s m)

theorem microStep_upc (s : State) (m : MicroStep) : (microStep s m).upc = s.upc + 1 := by
  obtain ⟨e, -, -, -, h⟩ := microStep_event s m
  exact h

/-- A single command before the end of its program. -/
theorem runsNext_of_single {i : Instr} {s : State} (hop : i.opcode ≠ 0x6#4) (hp : s.phase = .idle)
    (hk : s.upc < (program i).length) : RunsNext i s (program i)[s.upc] := by
  have hph : (microStep s (program i)[s.upc]).phase = .idle :=
    (microStep_flags i hop _ (List.getElem_mem hk) s).2.2.2.trans hp
  refine ⟨List.getElem?_eq_getElem hk, .inl hp, (placed_single hop _).mpr ⟨hph, ?_⟩, ?_⟩
  · rw [microStep_upc]
    exact hk
  · rw [remaining_idle i hp, remaining_idle i hph, microStep_upc]
    exact List.drop_eq_getElem_cons hk

/-- A place in an attempt: before its end a micro-operation that stays in the attempt, at its end the last one. -/
theorem attemptBody_at (wa rp ra : Byte) {k : Nat} (hk : k < 281) :
    ∃ m, (attemptBody wa rp ra)[k]? = some m ∧ (attemptBody wa rp ra).drop k = m :: (attemptBody wa rp ra).drop (k + 1)
      ∧ (k < 280 ∧ keepsPhase m = true ∨ k = 280 ∧ m = attemptEnd) := by
  have hlen : k < (attemptBody wa rp ra).length := by rwa [attemptBody_length]
  refine ⟨(attemptBody wa rp ra)[k], List.getElem?_eq_getElem hlen, List.drop_eq_getElem_cons hlen, ?_⟩
  simp only [attemptBody_eq]
  rcases Nat.lt_or_ge k 280 with h | h
  · have hi : k < (attemptInit wa rp ra).length := by rwa [attemptInit_length]
    rw [List.getElem_append_left hi]
    exact .inl ⟨h, List.all_eq_true.mp (attemptInit_keepsPhase wa rp ra) _ (List.getElem_mem hi)⟩
  · obtain rfl : k = 280 := by omega
    rw [List.getElem_append_right (by rw [attemptInit_length])]
    exact .inr ⟨rfl, by simp [attemptInit_length]⟩

/-- A READREG in its first attempt. -/
theorem runsNext_of_run1 {vc : BitVec 4} {wa rp ra : Byte} {s : State} (hp : s.phase = .run1) (hk : s.upc < 281)
    (ha : s.att = .first) : ∃ m, RunsNext (.readreg vc wa rp ra) s m := by
  obtain ⟨m, hm, hdrop, hend⟩ := attemptBody_at wa rp ra hk
  have hatt := (apart_microStep s m).att.trans ha
  have hupc := microStep_upc s m
  refine ⟨m, (program_readreg_first vc wa rp ra _ hk).trans hm, .inr (.inl hp), ?_⟩
  rw [remaining_run1 vc wa rp ra hp, hdrop]
  obtain ⟨hlt, hkeep⟩ | ⟨hlast, rfl⟩ := hend
  · have hph := (microStep_phase m s hkeep).trans hp
    exact ⟨.inl ⟨hph, by omega, hatt⟩, by rw [remaining_run1 vc wa rp ra hph, hupc]⟩
  · have hph : (microStep s attemptEnd).phase = .check := by rw [attemptEnd_phase, ha]; rfl
    refine ⟨.inr (.inl ⟨hph, by omega, hatt⟩), ?_⟩
    rw [remaining_ended _ (.inl hph), List.drop_eq_nil_of_le (by rw [attemptBody_length]; omega)]

/-- A READREG in its second attempt. -/
theorem runsNext_of_run2 {vc : BitVec 4} {wa rp ra : Byte} {s : State} {k : Nat} (hp : s.phase = .run2)
    (hk : k < 281) (hu : s.upc = 281 + k) (ha : s.att = .second) : ∃ m, RunsNext (.readreg vc wa rp ra) s m := by
  obtain ⟨m, hm, hdrop, hend⟩ := attemptBody_at wa rp ra hk
  have hatt := (apart_microStep s m).att.trans ha
  have hupc : (microStep s m).upc = 281 + (k + 1) := by rw [microStep_upc, hu]; rfl
  have hlisted : (program (.readreg vc wa rp ra))[s.upc]? = some m := by
    rw [program_readreg_second vc wa rp ra _ (by omega), hu, Nat.add_sub_cancel_left, hm]
  refine ⟨m, hlisted, .inr (.inr hp), ?_⟩
  rw [remaining_run2 vc wa rp ra hp hu, hdrop]
  obtain ⟨hlt, hkeep⟩ | ⟨hlast, rfl⟩ := hend
  · have hph := (microStep_phase m s hkeep).trans hp
    exact ⟨.inr (.inr (.inl ⟨hph, by omega, by omega, hatt⟩)), by rw [remaining_run2 vc wa rp ra hph hupc]⟩
  · have hph : (microStep s attemptEnd).phase = .done := by rw [attemptEnd_phase, ha]; rfl
    refine ⟨.inr (.inr (.inr hph)), ?_⟩
    rw [remaining_ended _ (.inr hph), List.drop_eq_nil_of_le (by rw [attemptBody_length]; omega)]

/-- With the micro-operation run there is as much left to run out as before. -/
theorem RunsNext.runOut_eq {i : Instr} {s : State} {m : MicroStep} (h : RunsNext i s m) :
    runOut i (microStep s m) = runOut i s := by
  rw [runOut, runOut, h.after.2, runSteps_cons]

/-- The command has nothing left but its completion step. -/
def AtEnd (i : Instr) (s : State) : Prop := (s.phase = .idle ∧ (program i).length ≤ s.upc) ∨ s.phase = .done

theorem remaining_atEnd {i : Instr} {s : State} (h : AtEnd i s) : remaining i s = [] := by
  obtain ⟨hp, hk⟩ | hp := h
  · rw [remaining_idle i hp, List.drop_eq_nil_of_le hk]
  · exact remaining_ended i (.inr hp)

/-- Everything a place can be: at a micro-operation, at the CHECK of a READREG, at the end. -/
theorem placed_cases {i : Instr} {s : State} (h : placed i s) :
    (∃ m, RunsNext i s m)
      ∨ (s.phase = .check ∧ s.upc = 281 ∧ ∃ vc wa rp ra, i = .readreg vc wa rp ra)
      ∨ AtEnd i s := by
  rcases readreg_or_single i with ⟨vc, wa, rp, ra, rfl⟩ | hop
  · obtain ⟨hp, hk, ha⟩ | ⟨hp, hu, -⟩ | ⟨hp, hlo, hhi, ha⟩ | hp := h
    · exact .inl (runsNext_of_run1 hp hk ha)
    · exact .inr (.inl ⟨hp, hu, vc, wa, rp, ra, rfl⟩)
    · exact .inl (runsNext_of_run2 (k := s.upc - 281) hp (by omega) (by omega) ha)
    · exact .inr (.inr (.inr hp))
  · obtain ⟨hp, -⟩ := (placed_single hop s).mp h
    rcases Nat.lt_or_ge s.upc (program i).length with hk | hk
    · exact .inl ⟨_, runsNext_of_single hop hp hk⟩
    · exact .inr (.inr (.inl ⟨hp, hk⟩))

section
variable {i : Instr} {s : State}

theorem engineStep_of_runsNext {m : MicroStep} (hc : s.cur = some i) (h : RunsNext i s m) :
    engineStep s = .next (microStep s m) := by
  simp only [engineStep, hc]
  rcases h.running with hp | hp | hp <;> simp only [hp, advance, h.listed]

theorem engineStep_of_check (hc : s.cur = some i) (hp : s.phase = .check) : engineStep s = .next (checkStep i s) := by
  simp only [engineStep, hc, hp]

theorem engineStep_of_atEnd (hc : s.cur = some i) (h : AtEnd i s) : engineStep s = .next (finish i s) := by
  simp only [engineStep, hc]
  obtain ⟨hp, hk⟩ | hp := h
  · simp only [hp, advance, List.getElem?_eq_none hk]
  · simp only [hp]

end

/-- After CHECK a READREG is at the start of its second attempt or at its end, and run out leaves the lines as R38
says. -/
theorem checkStep_placed {vc : BitVec 4} {wa rp ra : Byte} {s : State} (hu : s.upc = 281)
    (hlines : idleLines (finish (.readreg vc wa rp ra) s)) :
    placed (.readreg vc wa rp ra) (checkStep (.readreg vc wa rp ra) s)
      ∧ idleLines (runOut (.readreg vc wa rp ra) (checkStep (.readreg vc wa rp ra) s)) := by
  simp only [checkStep, checkRetry]
  split
  · refine ⟨.inr (.inr (.inl ⟨rfl, hu.ge, hu.trans_lt (by decide), rfl⟩)), ?_⟩
    exact runOut_attempt_idleLines (.inr ⟨rfl, hu⟩)
  · refine ⟨.inr (.inr (.inr rfl)), ?_⟩
    rw [runOut_of_remaining_nil (remaining_ended _ (.inr rfl))]
    exact hlines

/-- An engine step keeps the invariant: a micro-operation moves the place, CHECK sets it, completion finds the command
run out. -/
theorem engineStep_inv {s t : State} (hinv : Inv s) (hb : s.busy = true) (h : engineStep s = .next t) : Inv t := by
  obtain ⟨i, hc, hw, hp, hlines⟩ := hinv.running hb
  rcases placed_cases hp with ⟨m, hm⟩ | ⟨hph, hu, vc, wa, rp, ra, rfl⟩ | hend
  · obtain rfl := Host.Outcome.next.inj ((engineStep_of_runsNext hc hm).symm.trans h)
    have ha := apart_microStep s m
    exact hinv.of_running (microStep_moved s m) ha.attempts ha.lastop (ha.busy.trans hb) (ha.cur.trans hc) hw hm.after.1
      (hm.runOut_eq ▸ hlines)
  · obtain rfl := Host.Outcome.next.inj ((engineStep_of_check hc hph).symm.trans h)
    rw [runOut_of_remaining_nil (remaining_ended _ (.inl hph))] at hlines
    obtain ⟨hplaced, hafter⟩ := checkStep_placed hu hlines
    obtain ⟨hlastop, hbusy, htrace, hclk, hdata, -, hcur, hattempts⟩ := checkStep_facts (.readreg vc wa rp ra) s
    exact hinv.of_running (.of_kept htrace hclk hdata) hattempts hlastop (hbusy.trans hb) (hcur.trans hc) hw hplaced
      hafter
  · obtain rfl := Host.Outcome.next.inj ((engineStep_of_atEnd hc hend).symm.trans h)
    rw [runOut_of_remaining_nil (remaining_atEnd hend)] at hlines
    obtain ⟨hlastop, hbusy, htrace, hclk, hdata, -⟩ := finish_facts i s
    exact hinv.of_idle (.of_kept htrace hclk hdata) (finish_attempts_le i hinv.attempts_le) (hlastop ▸ opcode_le i)
      hbusy ⟨finish_phase i hp, hlines⟩

/-- Settles O46, agent by agent: the engine's step is the one that needs the place in the micro-program. -/
theorem stepKeepsTheInvariant : Obligations.StepKeepsTheInvariant := by
  intro s t hs h
  obtain ⟨rest, -, hidle | hengine | hrefused | hcmd | hread | hwrite | hreset⟩ := step_cases h
  all_goals have hinv : Inv { s with inputs := rest } := hs.of_sameBlock rfl
  · obtain ⟨-, -, rfl⟩ := hidle
    exact hinv
  · obtain ⟨-, hb, he⟩ := hengine
    exact engineStep_inv hinv hb he
  · obtain ⟨r, rfl⟩ := hrefused
    exact hinv.of_sameBlock rfl
  · obtain ⟨w, i, -, -, -, he⟩ := hcmd
    exact exec_inv hinv he
  · obtain ⟨off, width, -, rfl⟩ := hread
    exact hinv.of_sameBlock (hostRead_sameBlock off width _)
  · obtain ⟨off, width, w, i, -, hb, -, hr, rfl⟩ := hwrite
    exact accept_inv hinv hb hr
  · obtain ⟨-, rfl⟩ := hreset
    exact applyReset_inv _

end Sys2Proof.Machine

/-! PROOFS. The statements of 20_memory.md: the host's accesses to the register window (R51 to R56), the host action
"cmd", the completion (R57, R64), and that a written command, run by the engine, ends where exec ends. -/

namespace Sys2Proof.Machine

/-! ### One step, by the input it takes -/

section
variable {s : State} {rest : List Input}

theorem step_of_read {off width : Nat} (h : s.inputs = .read off width :: rest) :
    step s = .next (hostRead off width { s with inputs := rest }) := by
  simp only [step, h]

theorem step_of_write {off width : Nat} {v : Word} (h : s.inputs = .write off width v :: rest) :
    step s = .next (hostWrite off width v { s with inputs := rest }) := by
  simp only [step, h]

theorem step_of_cmd {w : Word} (h : s.inputs = .cmd w :: rest) :
    step s = runCommandWord w { s with inputs := rest } := by
  simp only [step, h]

end

/-! ### Reads -/

/-- A read of CMD (R53), whatever BUSY is. -/
theorem hostRead_cmd (s : State) : hostRead 0x0 4 s = s.returned 0#32 := rfl

/-- A read of STATUS with BUSY = 1 (R55). -/
theorem hostRead_status_busy {s : State} (hb : s.busy = true) : hostRead 0x4 4 s = readBusy busyStatusWord s := by
  simp [hostRead, mappedAccess, cmdOffset, statusOffset, hb]

/-- A read of RXDATA with BUSY = 1 (R55). -/
theorem hostRead_rxdata_busy {s : State} (hb : s.busy = true) : hostRead 0x8 4 s = readBusy id s := by
  simp [hostRead, mappedAccess, cmdOffset, statusOffset, hb]

/-- BUSY reads 1 in whatever STATUS gives while BUSY = 1 (R55). -/
theorem busyStatusWord_busy (draw : Word) : (busyStatusWord draw).getLsbD 0 = true := by
  simp [busyStatusWord]

/-- Settles O31: a read of CMD asks nothing of the state. -/
theorem cmdReadsAsZero : Obligations.CmdReadsAsZero := by
  intro s rest hin
  rw [step_of_read hin, hostRead_cmd]
  rfl

/-- Settles O33: the four reads, with BUSY = 0 of the state and with BUSY = 1 of a free value. -/
theorem statusAndRxdataReads : Obligations.StatusAndRxdataReads := by
  refine fun s rest => ⟨fun hb => ⟨?_, ?_⟩, fun hb => ⟨?_, ?_⟩⟩
  · exact congrArg Host.Outcome.next (hostRead_status (s := { s with inputs := rest }) hb)
  · exact congrArg Host.Outcome.next (hostRead_rxdata (s := { s with inputs := rest }) hb)
  · exact ⟨_, busyStatusWord_busy _,
      congrArg Host.Outcome.next (hostRead_status_busy (s := { s with inputs := rest }) hb)⟩
  · exact ⟨_, congrArg Host.Outcome.next (hostRead_rxdata_busy (s := { s with inputs := rest }) hb)⟩

/-! ### Refused accesses -/

/-- Which accesses are not mapped (R51, R52). -/
theorem mappedAccess_eq_false {off width : Nat} :
    mappedAccess off width = false ↔ width ≠ 4 ∨ off % 4 ≠ 0 ∨ 0xC ≤ off := by
  simp only [mappedAccess, Bool.and_eq_false_iff, beq_eq_false_iff_ne, decide_eq_false_iff_not]
  omega

theorem hostRead_unmapped {off width : Nat} (h : mappedAccess off width = false) (s : State) :
    hostRead off width s = s.refuse .access := by
  simp [hostRead, h]

theorem hostWrite_unmapped {off width : Nat} (h : mappedAccess off width = false) (v : Word) (s : State) :
    hostWrite off width v s = s.refuse .access := by
  simp [hostWrite, h]

/-- Settles O32: an access that is not mapped, and a write of a register that is not CMD. -/
theorem badAccessesRefused : Obligations.BadAccessesRefused := by
  refine fun s off width v rest => ⟨fun h => ?_, fun hoff => ?_⟩
  · have hm := mappedAccess_eq_false.mpr h
    exact ⟨congrArg Host.Outcome.next (hostRead_unmapped hm _),
      congrArg Host.Outcome.next (hostWrite_unmapped hm v _)⟩
  · have hne : off ≠ cmdOffset := by rcases hoff with rfl | rfl <;> decide
    exact congrArg Host.Outcome.next (hostWrite_of_ne_cmd hne 4 v _)

/-! ### The command word -/

/-- The decoder reads a well-formed command from its word (30_encoding.md R72, R77). -/
theorem decode_encode {i : Instr} (hw : i.wellFormed = true) : decode (encode i) = .ok i := by
  cases i with
  | sendbyte v =>
    have hzero : (encode (.sendbyte v)).extractLsb' 16 16 = 0#16 := by
      ext k hk
      simp only [encode, commandWord, BitVec.getElem_extractLsb', BitVec.getLsbD_append]
      interval_cases k <;> simp
    simp only [encode] at hzero
    simp [decode, encode, hzero]
  | readreg vc wa rp ra =>
    have hv : vcLegal vc = true := hw
    simp [decode, encode, hv]
  | _ => decide

/-- A command word while BUSY = 1 (R56). -/
theorem runCommandWord_busy {s : State} (hb : s.busy = true) (w : Word) :
    runCommandWord w s = .next (s.refuse .busy) := by
  simp [runCommandWord, hb]

/-- A command word that the decoder refuses (30_encoding.md R72). -/
theorem runCommandWord_error {w : Word} {r : RefuseReason} {s : State} (hb : s.busy = false)
    (hd : decode w = .error r) : runCommandWord w s = .next (s.refuse r) := by
  simp [runCommandWord, hb, hd]

/-- Settles O11: BUSY first, then the decoder. -/
theorem commandWordRefused : Obligations.CommandWordRefused := by
  refine fun s w rest hin => ⟨fun hb => ?_, fun r hb hd => ?_⟩
  · exact (step_of_cmd hin).trans (runCommandWord_busy (s := { s with inputs := rest }) hb w)
  · exact (step_of_cmd hin).trans (runCommandWord_error (s := { s with inputs := rest }) hb hd)

/-- A step that takes the word of a decoded command is exec, with a refusal turned into the mark. -/
theorem step_of_decoded_cmd {s : State} {w : Word} {rest : List Input} {i : Instr} (hin : s.inputs = .cmd w :: rest)
    (hb : s.busy = false) (hd : decode w = .ok i) :
    step s = afterExec { s with inputs := rest } (exec i { s with inputs := rest }) :=
  (step_of_cmd hin).trans (runCommandWord_ok hb hd)

/-- The word that `withFetchWord` places is run by the very next step. -/
theorem step_withFetchWord {s : State} {i : Instr} (hw : i.wellFormed = true) (hb : s.busy = false) :
    step (s.withFetchWord 32 (encode i).toNat) = afterExec s (exec i s) :=
  step_of_decoded_cmd (s := s.withFetchWord 32 (encode i).toNat) (rest := s.inputs) rfl hb
    (by rw [tableWord_toNat, decode_encode hw])

/-- Settles O6: both words reach exec, and `afterExec` passes its answer on or marks the run. -/
theorem stepRunsTheDecodedCommand : Obligations.StepRunsTheDecodedCommand := by
  refine ⟨fun s w rest i hin hb hd => ⟨fun t ht => ?_, fun r hr => ?_⟩,
    fun s i hw hb => ⟨fun t ht => ?_, fun r hr => ?_⟩⟩
  · rw [step_of_decoded_cmd hin hb hd, ht]
    rfl
  · rw [step_of_decoded_cmd hin hb hd, hr]
    rfl
  · rw [step_withFetchWord hw hb, ht]
    rfl
  · rw [step_withFetchWord hw hb, hr]
    rfl

/-! ### The CMD write -/

theorem step_of_cmd_write {s : State} {w : Word} {rest : List Input} (h : s.inputs = .write 0x0 4 w :: rest) :
    step s = .next (issueCommand w { s with inputs := rest }) := by
  rw [step_of_write h, hostWrite_cmd]

/-- A CMD write while BUSY = 1 (R56). -/
theorem issueCommand_busy {s : State} (hb : s.busy = true) (w : Word) : issueCommand w s = s.refuse .busy := by
  simp [issueCommand, hb]

/-- A CMD write whose word the decoder refuses (R56). -/
theorem issueCommand_error {w : Word} {r : RefuseReason} {s : State} (hb : s.busy = false) (hd : decode w = .error r) :
    issueCommand w s = s.refuse r := by
  simp [issueCommand, hb, hd]

/-- No precondition looks at the inputs. -/
theorem refusalOf_withInputs (i : Instr) (s : State) (rest : List Input) :
    refusalOf i { s with inputs := rest } = refusalOf i s := by
  cases i <;> rfl

/-- The latch of an accepted command (R56), with RUN1 and `ATT` for a READREG (42_register_access.md R158). -/
theorem accept_eq (i : Instr) (s : State) :
    accept i s = { s with
      cur := some i, upc := 0, busy := true
      att := if i.opcode = 0x6#4 then .first else s.att
      phase := if i.opcode = 0x6#4 then .run1 else s.phase } := by
  rcases readreg_or_single i with ⟨vc, wa, rp, ra, rfl⟩ | hop
  · rfl
  · rw [accept_of_single hop, if_neg hop, if_neg hop]
    rfl

/-- Settles O35: the branches of `IssueCommand` in their order, exec's refusal being the failed precondition. -/
theorem cmdWriteIssuesTheCommand : Obligations.CmdWriteIssuesTheCommand := by
  intro s w rest hin
  rw [step_of_cmd_write hin]
  refine ⟨fun hb => ?_, fun hb => ⟨fun r hd => ?_, fun i hd => ⟨fun r hr => ?_, fun u hu => ?_⟩⟩⟩
  · exact congrArg Host.Outcome.next (issueCommand_busy (s := { s with inputs := rest }) hb w)
  · exact congrArg Host.Outcome.next (issueCommand_error (s := { s with inputs := rest }) hb hd)
  · obtain ⟨hbusy, -⟩ | ⟨-, hr⟩ := exec_refused.mp hr
    · exact absurd (hb.symm.trans hbusy) (by decide)
    · exact congrArg Host.Outcome.next
        (issueCommand_refuse (s := { s with inputs := rest }) hb hd ((refusalOf_withInputs i s rest).trans hr))
  · obtain ⟨-, hr, -⟩ := exec_next.mp hu
    exact congrArg Host.Outcome.next
      ((issueCommand_accept (s := { s with inputs := rest }) hb hd ((refusalOf_withInputs i s rest).trans hr)).trans
        (accept_eq i _))

/-! ### Completion -/

/-- With BUSY = 1 a step that acts for a command is the engine's. -/
theorem actsFor_engineNext {i : Instr} {s : State} (h : actsFor i s) (hb : s.busy = true) : engineNext s := by
  obtain ⟨w, rest, -, hidle, -⟩ | ⟨hn, -⟩ := h
  · exact absurd (hidle.symm.trans hb) (by decide)
  · exact hn

/-- Settles O39: what clears BUSY acts for the command in CUR, so it is an engine step, and of those the one without an
event. -/
theorem completionFollowsEveryLineAction : Obligations.CompletionFollowsEveryLineAction := by
  intro s t h hb ht hr
  obtain ⟨-, hbusy⟩ | ⟨i, hi, hlastop, -⟩ := step_lastop h hr
  · exact absurd (ht.symm.trans (hbusy hb)) (by decide)
  · have hn := actsFor_engineNext hi hb
    obtain ⟨rest, hstep⟩ := step_of_engineNext hn hb
    obtain ⟨-, -, -, hbusy, -⟩ | ⟨htrace, -, hclk, hdata, -⟩ :=
      engineStep_event (s := { s with inputs := rest }) hb (hstep.symm.trans h)
    · exact absurd (ht.symm.trans hbusy) (by decide)
    · exact ⟨hn, htrace, hclk, hdata, i, actsFor_cur hi hb, hlastop⟩

/-! ### An accepted command, run by the engine -/

/-- The engine has the command `i` in progress and nothing else waits. -/
structure EngineAlone (i : Instr) (s : State) : Prop where
  inputs : s.inputs = []
  busy : s.busy = true
  cur : s.cur = some i

section
variable {i : Instr} {s t : State}

/-- Micro-operations leave the engine alone with its command. -/
theorem EngineAlone.of_apart (h : EngineAlone i s) (k : Apart s t) : EngineAlone i t :=
  ⟨k.inputs.trans h.inputs, k.busy.trans h.busy, k.cur.trans h.cur⟩

/-- CHECK leaves the engine alone with its command. -/
theorem EngineAlone.of_checkStep (h : EngineAlone i s) : EngineAlone i (checkStep i s) := by
  obtain ⟨-, hbusy, -, -, -, -, hcur, -⟩ := checkStep_facts i s
  refine ⟨?_, hbusy.trans h.busy, hcur.trans h.cur⟩
  cases i with
  | readreg vc wa rp ra =>
    simp only [checkStep, checkRetry]
    split <;> exact h.inputs
  | _ => exact h.inputs

theorem EngineAlone.of_accept (hin : s.inputs = []) : EngineAlone i (accept i s) := by
  rw [accept_eq]
  exact ⟨hin, rfl, rfl⟩

/-- The completion step. -/
theorem EngineAlone.stepsTo_finish (h : EngineAlone i s) (hend : AtEnd i s) : stepsTo 1 s (finish i s) :=
  stepsTo_one ((step_engine h.inputs h.busy).trans (engineStep_of_atEnd h.cur hend))

/-- The step that is CHECK. -/
theorem EngineAlone.stepsTo_check (h : EngineAlone i s) (hp : s.phase = .check) : stepsTo 1 s (checkStep i s) :=
  stepsTo_one ((step_engine h.inputs h.busy).trans (engineStep_of_check h.cur hp))

end

/-- A single command from the start of its program: a step for each micro-operation, and the completion. -/
theorem stepsTo_runWhole_single {i : Instr} {s : State} (hop : i.opcode ≠ 0x6#4) (h : EngineAlone i s)
    (hp : s.phase = .idle) (hu : s.upc = 0) : stepsTo ((program i).length + 1) s (runWhole i s) := by
  have hkeep := program_keepsPhase i hop
  have hrun : stepsTo (program i).length s (runSteps (program i) s) := by
    refine stepsTo_runSteps i _ s h.inputs h.busy h.cur (.inl hp) (fun k _ => by rw [hu, Nat.zero_add]) ?_
    rw [List.all_eq_true] at hkeep ⊢
    exact fun m hm => hkeep m (List.mem_of_mem_dropLast hm)
  have hend : AtEnd i (runSteps (program i) s) :=
    .inl ⟨(runSteps_phase _ s hkeep).trans hp, by rw [(runSteps_counts _ s).1]; omega⟩
  rw [runWhole_of_single hop]
  exact stepsTo_add hrun ((h.of_apart (apart_runSteps _ s)).stepsTo_finish hend)

section
variable {vc : BitVec 4} {wa rp ra : Byte} {s : State}

/-- A whole attempt of a READREG, from its start in RUN1 or in RUN2. -/
theorem stepsTo_wholeAttempt (h : EngineAlone (.readreg vc wa rp ra) s)
    (hp : s.phase = .run1 ∧ s.upc = 0 ∨ s.phase = .run2 ∧ s.upc = 281) :
    stepsTo 281 s (runSteps (attemptBody wa rp ra) s) :=
  stepsTo_attempt vc wa rp ra s 0 h.inputs h.busy h.cur (Nat.zero_le 280) hp

/-- Where a whole attempt leaves the retry state machine (42_register_access.md R158). -/
theorem wholeAttempt_phase (wa rp ra : Byte) (s : State) :
    (runSteps (attemptBody wa rp ra) s).phase = phaseAfterAttempt s.att :=
  runSteps_attempt_phase wa rp ra 0 (Nat.zero_le 280) s

/-- From CHECK: the check, a second attempt where it is wanted, the completion (R153, R154, R158). -/
theorem stepsTo_from_check (h : EngineAlone (.readreg vc wa rp ra) s) (hp : s.phase = .check) (hu : s.upc = 281) :
    ∃ n ≤ 283, stepsTo n s (readregDone vc
      (if (checkRetry vc s).phase = .run2 then runSteps (attemptBody wa rp ra) (checkRetry vc s)
        else checkRetry vc s)) := by
  have hcheck : stepsTo 1 s (checkRetry vc s) := h.stepsTo_check hp
  have halone : EngineAlone (.readreg vc wa rp ra) (checkRetry vc s) := h.of_checkStep
  cases hw : retryWanted vc s with
  | true =>
    have hretry : checkRetry vc s = { s with att := .second, phase := .run2 } := by rw [checkRetry, if_pos hw]
    rw [hretry] at hcheck halone ⊢
    have hattempt := stepsTo_wholeAttempt halone (.inr ⟨rfl, hu⟩)
    have hdone := (halone.of_apart (apart_runSteps (attemptBody wa rp ra) _)).stepsTo_finish
      (.inr (wholeAttempt_phase wa rp ra _))
    exact ⟨_, Nat.le_refl 283, stepsTo_add hcheck (stepsTo_add hattempt hdone)⟩
  | false =>
    have hretry : checkRetry vc s = { s with phase := .done } := by rw [checkRetry, hw]; rfl
    rw [hretry] at hcheck halone ⊢
    exact ⟨2, by decide, stepsTo_add hcheck (halone.stepsTo_finish (.inr rfl))⟩

/-- An accepted READREG: the first attempt, then what CHECK decides. -/
theorem stepsTo_runWhole_readreg (h : EngineAlone (.readreg vc wa rp ra) (beginReadreg s)) (hu : s.upc = 0) :
    ∃ n ≤ 564, stepsTo n (beginReadreg s) (runWhole (.readreg vc wa rp ra) s) := by
  have hattempt := stepsTo_wholeAttempt h (.inl ⟨rfl, hu⟩)
  have hupc : (runSteps (attemptBody wa rp ra) (beginReadreg s)).upc = 281 := by
    rw [(runSteps_counts _ _).1, attemptBody_length, beginReadreg_upc, hu]
  obtain ⟨n, hn, hrest⟩ := stepsTo_from_check (h.of_apart (apart_runSteps _ _)) (wholeAttempt_phase wa rp ra _) hupc
  exact ⟨281 + n, by omega, stepsTo_add hattempt hrest⟩

end

/-- The engine runs an accepted command to the state exec gives. -/
theorem stepsTo_of_accepted (i : Instr) {s : State} (hp : s.phase = .idle) (hin : s.inputs = []) :
    ∃ n ≤ 564, stepsTo n (accept i s) (runWhole i (s.issue i)) := by
  have halone : EngineAlone i (accept i s) := .of_accept hin
  rcases readreg_or_single i with ⟨vc, wa, rp, ra, rfl⟩ | hop
  · exact stepsTo_runWhole_readreg halone rfl
  · rw [accept_of_single hop] at halone ⊢
    refine ⟨_, ?_, stepsTo_runWhole_single hop halone hp rfl⟩
    rw [program_length]
    split <;> decide

/-- Settles O41: the CMD write accepts what exec runs, and the engine runs it to the same end. -/
theorem writtenCommandRunsToExec : Obligations.WrittenCommandRunsToExec := by
  intro i s t hw hb hp hin h
  obtain ⟨-, hr, rfl⟩ := exec_next.mp h
  have hs : { s with inputs := [] } = s := by rw [← hin]
  have hwrite : stepsTo 1 { s with inputs := [.write 0x0 4 (encode i)] } (accept i s) := by
    refine stepsTo_one ?_
    rw [step_of_cmd_write rfl]
    simp only [hs]
    rw [issueCommand_accept hb (decode_encode hw) hr]
  obtain ⟨n, hn, hrun⟩ := stepsTo_of_accepted i hp hin
  exact ⟨1 + n, by omega, stepsTo_add hwrite hrun⟩

end Sys2Proof.Machine

/-! PROOFS. The statements of 30_encoding.md: the opcode map (R70 to R73), decode and encode undo each other (R75, R76),
the words of the assembler table (R77), and the pseudo-instructions (R78). -/

namespace Sys2Proof.Machine

/-! ### The opcode map -/

/-- The commands without operands: bits 31:4 of their word are 0 (R72). -/
def operandless : List Instr := [.start, .rstart, .stop, .readword]

section
variable {w : Word} {i : Instr}

theorem mem_operandless : i ∈ operandless ↔ i = .start ∨ i = .rstart ∨ i = .stop ∨ i = .readword := by
  simp [operandless]

/-- The rows of R71: a reserved opcode, a command without operands, SENDBYTE, READREG. -/
theorem opField_cases (w : Word) :
    ((opField w).toNat = 0 ∨ 7 ≤ (opField w).toNat) ∨ (∃ i ∈ operandless, opField w = i.opcode)
      ∨ opField w = 0x4#4 ∨ opField w = 0x6#4 := by
  generalize opField w = op
  revert op
  decide

theorem decode_of_reservedOp (h : (opField w).toNat = 0 ∨ 7 ≤ (opField w).toNat) :
    decode w = .error .reservedOp := by
  unfold decode
  split
  case h_7 => rfl
  all_goals omega

theorem decode_of_operandless (hi : i ∈ operandless) (hop : opField w = i.opcode) :
    decode w = if w.extractLsb' 4 28 = 0#28 then .ok i else .error .reservedField := by
  obtain rfl | rfl | rfl | rfl := mem_operandless.mp hi <;> simp [decode, hop, Instr.opcode, operandFieldsZero]

theorem decode_of_sendbyteOp (hop : opField w = 0x4#4) :
    decode w = if vcField w = 0#4 ∧ w.extractLsb' 16 16 = 0#16 then .ok (.sendbyte (b0Field w))
      else .error .reservedField := by
  simp [decode, hop]

theorem decode_of_readregOp (hop : opField w = 0x6#4) :
    decode w = if 6 < (vcField w).toNat then .error .reservedVClass
      else .ok (.readreg (vcField w) (b0Field w) (b1Field w) (b2Field w)) := by
  by_cases hv : 6 < (vcField w).toNat <;> simp [decode, hop, vcLegal, hv]

end

/-- Settles O2: the rows of the opcode map. -/
theorem decodeFollowsTheOpcodeMap : Obligations.DecodeFollowsTheOpcodeMap :=
  fun _ => ⟨decode_of_reservedOp, decode_of_operandless (i := .start) (by decide),
    decode_of_operandless (i := .rstart) (by decide), decode_of_operandless (i := .stop) (by decide),
    decode_of_sendbyteOp, decode_of_operandless (i := .readword) (by decide), decode_of_readregOp⟩

/-! ### Decode and encode undo each other -/

/-- Settles O3: every field of the word is read back (`decode_encode`). -/
theorem decodeOfEncodeIsTheCommand : Obligations.DecodeOfEncodeIsTheCommand :=
  fun _ => decode_encode

/-- A word is its operand bits and its opcode (R70). -/
theorem operands_append_opField (w : Word) : w.extractLsb' 4 28 ++ opField w = w :=
  (BitVec.extractLsb'_append_extractLsb'_eq_extractLsb' rfl).trans BitVec.extractLsb'_eq_self

/-- The bits that SENDBYTE needs 0 are B2 and B1 (R70). -/
theorem b2Field_append_b1Field (w : Word) : b2Field w ++ b1Field w = w.extractLsb' 16 16 :=
  BitVec.extractLsb'_append_extractLsb'_eq_extractLsb' rfl

theorem encode_of_operandless {i : Instr} (hi : i ∈ operandless) : encode i = 0#28 ++ i.opcode := by
  obtain rfl | rfl | rfl | rfl := mem_operandless.mp hi <;> rfl

theorem encode_sendbyte (v : Byte) : encode (.sendbyte v) = 0#16 ++ v ++ 0#4 ++ 0x4#4 := rfl

theorem wellFormed_of_operandless {i : Instr} (hi : i ∈ operandless) : i.wellFormed = true := by
  obtain rfl | rfl | rfl | rfl := mem_operandless.mp hi <;> rfl

/-- The encoder gives back the word a command was decoded from, and that command is well formed (R75, R76). -/
theorem encode_of_decode {w : Word} {i : Instr} (h : decode w = .ok i) : i.wellFormed = true ∧ encode i = w := by
  obtain hres | ⟨j, hj, hop⟩ | hop | hop := opField_cases w
  · rw [decode_of_reservedOp hres] at h
    cases h
  · rw [decode_of_operandless hj hop] at h
    split at h
    case isTrue hzero =>
      obtain rfl := Except.ok.inj h
      refine ⟨wellFormed_of_operandless hj, ?_⟩
      rw [encode_of_operandless hj, ← hzero, ← hop, operands_append_opField]
    case isFalse => cases h
  · rw [decode_of_sendbyteOp hop] at h
    split at h
    case isTrue hzero =>
      obtain ⟨hvc, hhigh⟩ := hzero
      obtain rfl := Except.ok.inj h
      refine ⟨rfl, ?_⟩
      rw [encode_sendbyte, ← hhigh, ← b2Field_append_b1Field, ← hvc, ← hop]
      exact commandWord_fields w
    case isFalse => cases h
  · rw [decode_of_readregOp hop] at h
    split at h
    case isTrue => cases h
    case isFalse hv =>
      obtain rfl := Except.ok.inj h
      refine ⟨decide_eq_true (Nat.le_of_not_lt hv), ?_⟩
      rw [encode, ← hop, commandWord_fields]

/-- Settles O4, from the row of the opcode map the word falls under. -/
theorem encodeOfDecodeIsTheWord : Obligations.EncodeOfDecodeIsTheWord :=
  fun _ _ => encode_of_decode

/-! ### Words written out -/

/-- The diagram of R70 as a sum of shifted fields. -/
theorem commandWord_eq_or (b2 b1 b0 : Byte) (vc op : BitVec 4) :
    commandWord b2 b1 b0 vc op = (b2.zeroExtend 32 <<< 24) ||| (b1.zeroExtend 32 <<< 16) ||| (b0.zeroExtend 32 <<< 8)
      ||| (vc.zeroExtend 32 <<< 4) ||| op.zeroExtend 32 := by
  apply BitVec.eq_of_getLsbD_eq
  intro k hk
  simp only [commandWord, BitVec.getLsbD_append, BitVec.getLsbD_or, BitVec.getLsbD_shiftLeft, BitVec.getLsbD_setWidth]
  interval_cases k <;> simp

/-- The VC field of a class is legal (R74). -/
theorem vcLegal_vcOfClass (c : VClass) : vcLegal (vcOfClass c) = true := by
  cases c <;> rfl

/-- Settles O5: the formulas of R77 are the diagram of R70; `batread` names a class. -/
theorem encodeIsTheWrittenFormula : Obligations.EncodeIsTheWrittenFormula := by
  refine ⟨rfl, rfl, rfl, fun v => ?_, rfl, fun vc wa rp ra => ?_, fun a c rp => ⟨rfl, vcLegal_vcOfClass c⟩,
    fun _ _ => rfl⟩
  · rw [encode, commandWord_eq_or]
    simp
  · rw [encode, commandWord_eq_or]
    rfl

/-- Settles O1: ten closed words. -/
theorem decodeReadsWrittenWords : Obligations.DecodeReadsWrittenWords := by
  unfold Obligations.DecodeReadsWrittenWords
  decide

/-! ### Commands run one after another by the host -/

/-- What a list of commands does, each run whole from the state the one before it left. -/
def runCommands : List Instr → State → State
  | [], s => s
  | i :: is, s => runCommands is (runWhole i (s.issue i))

/-- Each command of the list meets its precondition when those before it have run. -/
def allAccepted : List Instr → State → Prop
  | [], _ => True
  | i :: is, s => refusalOf i s = none ∧ allAccepted is (runWhole i (s.issue i))

/-- A command that has run has left BUSY = 0 (20_memory.md R57). -/
theorem runWhole_busy (i : Instr) (s : State) : (runWhole i s).busy = false := by
  obtain ⟨u, hu⟩ := runWhole_ends_with_finish i s
  obtain ⟨-, hbusy, -⟩ := finish_facts i u
  rw [hu, hbusy]

/-- No command looks at the inputs or takes one. -/
theorem runWhole_withInputs (i : Instr) (s : State) (rest : List Input) :
    runWhole i (State.issue { s with inputs := rest } i) = { runWhole i (s.issue i) with inputs := rest } := by
  cases i with
  | start => simp only [runWhole_start]; rfl
  | rstart => simp only [runWhole_rstart]; rfl
  | stop => simp only [runWhole_stop]; rfl
  | sendbyte v => simp only [runWhole_sendbyte]; rfl
  | readword => simp only [runWhole_readword]; rfl
  | readreg vc wa rp ra => simp only [runWhole_readreg]; rfl

/-- The step that takes the word of an accepted command runs it whole. -/
theorem step_of_accepted_cmd {s : State} {i : Instr} (rest : List Input) (hb : s.busy = false)
    (hr : refusalOf i s = none) :
    step { s with inputs := .cmd (encode i) :: rest } = .next { runWhole i (s.issue i) with inputs := rest } := by
  have hexec : exec i { s with inputs := rest } = .next { runWhole i (s.issue i) with inputs := rest } :=
    exec_next.mpr ⟨hb, (refusalOf_withInputs i s rest).trans hr, (runWhole_withInputs i s rest).symm⟩
  have hdecode : decode (encode i) = .ok i := decode_encode (wellFormed_of_accepted hr)
  exact (step_of_decoded_cmd (s := { s with inputs := .cmd (encode i) :: rest }) rfl hb hdecode).trans
    (congrArg (afterExec _) hexec)

/-- A step for each command of a list, if none is refused. -/
theorem stepsTo_runCommands (is : List Instr) {s : State} (hb : s.busy = false) (h : allAccepted is s) :
    stepsTo is.length { s with inputs := is.map fun i => .cmd (encode i) } { runCommands is s with inputs := [] } := by
  induction is generalizing s with
  | nil => exact stepsTo_zero _
  | cons i is ih =>
    obtain ⟨hr, hrest⟩ := h
    rw [List.length_cons, Nat.add_comm]
    exact stepsTo_add (stepsTo_one (step_of_accepted_cmd _ hb hr)) (ih (runWhole_busy i _) hrest)

/-! ### The commands of rawread -/

/-- READWORD's precondition (41_byte_transfer.md R139). -/
theorem readwordRefusal_eq_none {s : State} : readwordRefusal s = none ↔ s.sess = true ∧ s.lineData = .floating := by
  cases hs : s.sess <;> cases hd : s.lineData <;> simp [readwordRefusal, needsSession, hs, hd]

/-- START opens the session the others need, and READWORD comes after a SENDBYTE, which floats DATA. -/
theorem allAccepted_rawread (wa rp ra : Byte) {s : State} (hs : s.sess = false) : allAccepted (rawread wa rp ra) s := by
  simp only [rawread, allAccepted, refusalOf, startRefusal, sendbyteRefusal, rstartRefusal, stopRefusal,
    needsNoSession_eq_none, needsSession_eq_none, readwordRefusal_eq_none]
  simp [runWhole_start, runWhole_sendbyte, runWhole_rstart, runWhole_readword, hs]

/-- What the seven commands leave (R78), in the terms of one attempt (42_register_access.md R151). -/
theorem runCommands_rawread (wa rp ra : Byte) (s : State) :
    runCommands (rawread wa rp ra) s =
      { s with
        lineClk := .floating
        lineData := .floating
        cur := some .stop
        upc := 6
        txb := ra
        ackSample := (attemptAnswers s).ackRead
        ack := !(attemptAnswers s).ackRead
        sess := false
        err := (attemptAnswers s).failed
        sr := (attemptAnswers s).value
        rxdata := (attemptAnswers s).value
        lastop := 0x3#4
        busy := false
        trace := s.trace ++ attemptTrace wa rp ra (attemptAnswers s)
        peer := s.peer.drop 19
        draws := drawsAfter 19 s.peer s.draws } := by
  have h2 : drawsAfter 2 s.peer s.draws = _ := drawsAfter_add 1 1 s.peer s.draws
  have h3 : drawsAfter 3 s.peer s.draws = _ := drawsAfter_add 2 1 s.peer s.draws
  have h19 : drawsAfter 19 s.peer s.draws = _ := drawsAfter_add 3 16 s.peer s.draws
  rw [h19, h3, h2]
  simp [rawread, runCommands, runWhole_start, runWhole_sendbyte, runWhole_rstart, runWhole_readword, runWhole_stop,
    attemptTrace, attemptAnswers, AttemptAnswers.failed, AttemptAnswers.value, answers, nextSample, h2, h3]

/-- Settles O22: no command of the seven is refused, so seven steps run them whole. -/
theorem rawreadIsOneAttempt : Obligations.RawreadIsOneAttempt := by
  intro wa rp ra s hb hs _
  refine ⟨_, stepsTo_runCommands (rawread wa rp ra) hb (allAccepted_rawread wa rp ra hs), ?_⟩
  rw [runCommands_rawread]
  exact ⟨rfl, rfl, rfl, rfl, rfl, rfl, rfl, rfl, rfl⟩

end Sys2Proof.Machine

/-! PROOFS. The statements of 40_bus_conditions.md: START, RSTART and STOP (R100, R103, R105) and the session rule of the
commands (R101, R104, R106, 41_byte_transfer.md R126, 42_register_access.md R159). -/

namespace Sys2Proof.Machine

/-! ### The session rule -/

section
variable {s : State} {i : Instr}

theorem needsSession_eq_session : needsSession s = some .session ↔ s.sess = false := by
  simp [needsSession]

theorem needsNoSession_eq_session : needsNoSession s = some .session ↔ s.sess = true := by
  simp [needsNoSession]

/-- The commands whose whole precondition is an open session (R104, R106, 41_byte_transfer.md R126). -/
theorem refusalOf_inSession (hi : i = .rstart ∨ i = .stop ∨ ∃ v, i = .sendbyte v) :
    i.wellFormed = true ∧ refusalOf i s = needsSession s := by
  obtain rfl | rfl | ⟨v, rfl⟩ := hi <;> exact ⟨rfl, rfl⟩

/-- READREG of a class 0 to 6 needs that no session is open, and no more (42_register_access.md R159). -/
theorem refusalOf_legalReadreg {vc : BitVec 4} (wa rp ra : Byte) (hvc : vcLegal vc = true) :
    refusalOf (.readreg vc wa rp ra) s = needsNoSession s :=
  if_pos hvc

/-- A command that nothing refuses answers the state it leaves when it has run. -/
theorem exec_of_accepted (hb : s.busy = false) (hr : refusalOf i s = none) :
    exec i s = .next (runWhole i (s.issue i)) :=
  exec_next.mpr ⟨hb, hr, rfl⟩

/-- A failed precondition refuses the command (20_memory.md R56). -/
theorem exec_of_failed {r : RefuseReason} (hb : s.busy = false) (hr : refusalOf i s = some r) :
    exec i s = .refused (.refuse r) :=
  exec_refused.mpr (.inr ⟨hb, hr⟩)

/-- A failed precondition refuses the CMD write of the command's word, which writes nothing (20_memory.md R56,
60_exceptions.md R183). -/
theorem step_of_failed_cmd_write {r : RefuseReason} (hw : i.wellFormed = true) (hb : s.busy = false)
    (hr : refusalOf i s = some r) (rest : List Input) :
    step { s with inputs := .write 0x0 4 (encode i) :: rest }
      = .next { s with inputs := rest, refusals := s.refusals ++ [r] } :=
  (step_of_cmd_write rfl).trans (congrArg Host.Outcome.next
    (issueCommand_refuse (s := { s with inputs := rest }) hb (decode_encode hw)
      ((refusalOf_withInputs i s rest).trans hr)))

/-- The command and the CMD write of its word are refused alike. -/
theorem refused_of_failed {r : RefuseReason} (hw : i.wellFormed = true) (hb : s.busy = false)
    (hr : refusalOf i s = some r) :
    exec i s = .refused (.refuse r)
      ∧ ∀ rest, step { s with inputs := .write 0x0 4 (encode i) :: rest }
        = .next { s with inputs := rest, refusals := s.refusals ++ [r] } :=
  ⟨exec_of_failed hb hr, step_of_failed_cmd_write hw hb hr⟩

end

/-- Settles O8: the precondition is the session's state alone, and exec and the CMD write ask the same one. -/
theorem sessionRuleOfTheCommands : Obligations.SessionRuleOfTheCommands := by
  refine fun s hb => ⟨fun i hi => ?_, fun vc wa rp ra hvc => ?_⟩
  · obtain ⟨hw, hpre⟩ := refusalOf_inSession (s := s) hi
    exact ⟨fun hs => ⟨_, exec_of_accepted hb (hpre.trans (needsSession_eq_none.mpr hs))⟩,
      fun hs => refused_of_failed hw hb (hpre.trans (needsSession_eq_session.mpr hs))⟩
  · have hw : vcLegal vc = true := decide_eq_true hvc
    have hpre := refusalOf_legalReadreg (s := s) wa rp ra hw
    exact ⟨fun hs => ⟨_, exec_of_accepted hb (hpre.trans (needsNoSession_eq_none.mpr hs))⟩,
      fun hs => refused_of_failed hw hb (hpre.trans (needsNoSession_eq_session.mpr hs))⟩

/-- Settles O9: START's precondition is that no session is open, and then the invariant has both lines floating. -/
theorem startBeginsFromAnIdleBus : Obligations.StartBeginsFromAnIdleBus :=
  ⟨fun _ hb hs => refused_of_failed (i := .start) rfl hb (needsNoSession_eq_session.mpr hs),
    fun _ hb hs => ⟨_, exec_of_accepted hb (needsNoSession_eq_none.mpr hs)⟩, fun _ hinv => hinv.lines_float⟩

/-! ### The three commands -/

/-- Settles O12: START's state in closed form, its precondition, and one run from reset. -/
theorem startOpensASession : Obligations.StartOpensASession := by
  refine ⟨decode_encode (i := .start) rfl, fun s hb hs => ?_,
    fun s hb hs => exec_of_failed hb (needsNoSession_eq_session.mpr hs), ?_⟩
  · refine ⟨_, exec_of_accepted hb (needsNoSession_eq_none.mpr hs), ?_⟩
    simp only [runWhole_start, hb]
    rfl
  · refine ⟨_, exec_of_accepted rfl rfl, ?_⟩
    rw [runWhole_start]
    rfl

/-- Settles O13: RSTART's state in closed form, and its precondition. -/
theorem rstartRepeatsTheStart : Obligations.RstartRepeatsTheStart := by
  refine ⟨decode_encode (i := .rstart) rfl, fun s hb hs => ?_,
    fun s hb hs => exec_of_failed hb (needsSession_eq_session.mpr hs)⟩
  refine ⟨_, exec_of_accepted hb (needsSession_eq_none.mpr hs), ?_⟩
  simp only [runWhole_rstart, hb]
  rfl

/-- Settles O14: STOP's state in closed form, and its precondition. -/
theorem stopClosesTheSession : Obligations.StopClosesTheSession := by
  refine ⟨decode_encode (i := .stop) rfl, fun s hb hs => ?_,
    fun s hb hs => exec_of_failed hb (needsSession_eq_session.mpr hs)⟩
  refine ⟨_, exec_of_accepted hb (needsSession_eq_none.mpr hs), ?_⟩
  simp only [runWhole_stop, hb]
  rfl

end Sys2Proof.Machine

/-! PROOFS. The statements of 41_byte_transfer.md: SENDBYTE (R120 to R126), READWORD (R130 to R139) and the drives at
the samples (R124, R133). -/

namespace Sys2Proof.Machine

/-! ### Preconditions, trace and lines -/

section
variable {s t : State} {i : Instr}

/-- READWORD without a session (R139). -/
theorem readwordRefusal_of_no_session (hs : s.sess = false) : readwordRefusal s = some .session := by
  simp [readwordRefusal, needsSession_eq_session.mpr hs]

/-- READWORD in a session with DATA driven low (R139). -/
theorem readwordRefusal_of_data_low (hs : s.sess = true) (hd : s.lineData = .drivenLow) :
    readwordRefusal s = some .lineState := by
  simp [readwordRefusal, needsSession_eq_none.mpr hs, hd]

/-- Issuing a command does not change the events it will leave. -/
theorem commandTrace_issue (i j : Instr) (s : State) : commandTrace i (s.issue j) = commandTrace i s := by
  cases i <;> rfl

theorem exec_trace (h : exec i s = .next t) : t.trace = s.trace ++ commandTrace i s := by
  obtain ⟨-, -, rfl⟩ := exec_next.mp h
  rw [runWhole_trace, commandTrace_issue, issue_trace]

theorem exec_lineData (h : exec i s = .next t) : t.lineData = driveAt .data s.lineData (commandTrace i s) := by
  obtain ⟨-, -, rfl⟩ := exec_next.mp h
  rw [(runWhole_lines i _).2, commandTrace_issue, issue_lineData]

/-- With BUSY = 0 and a session the invariant has DATA floating exactly after a SENDBYTE or a READWORD (R139). -/
theorem Inv.data_floating_iff (hinv : Inv s) (hb : s.busy = false) (hs : s.sess = true) :
    s.lineData = .floating ↔ s.lastop = 0x4#4 ∨ s.lastop = 0x5#4 :=
  ((hinv.idle hb).2.2 hs).2

end

/-! ### READWORD's precondition -/

/-- Settles O10: the three outcomes of the precondition, DATA at the end of the traces, and the invariant's last
command. -/
theorem readwordNeedsFloatingData : Obligations.ReadwordNeedsFloatingData := by
  refine ⟨fun s hb => ⟨fun hs => ?_, fun hs hd => ?_, fun hs hd => ?_⟩, fun s t => ⟨fun v h => ?_, fun h => ?_,
    fun h => ?_, fun h => ?_⟩, fun s t hinv h => ?_⟩
  · exact exec_of_failed hb (readwordRefusal_of_no_session hs)
  · exact exec_of_failed hb (readwordRefusal_of_data_low hs hd)
  · exact ⟨_, exec_of_accepted hb (readwordRefusal_eq_none.mpr ⟨hs, hd⟩)⟩
  · exact (exec_lineData h).trans (sendbyte_lines v _ .floating _).2
  · exact (exec_lineData h).trans (readword_lines _ .floating _).2
  · exact (exec_lineData h).trans (start_lines .floating _).2
  · exact (exec_lineData h).trans (rstart_lines .floating _).2
  · obtain ⟨hb, hr, -⟩ := exec_next.mp h
    obtain ⟨hs, hd⟩ := readwordRefusal_eq_none.mp hr
    exact (hinv.data_floating_iff hb hs).mp hd

/-! ### SENDBYTE -/

/-- Settles O15: SENDBYTE's word, its state in closed form, and its precondition. -/
theorem sendbyteCompletes : Obligations.SendbyteCompletes := by
  obtain ⟨-, -, -, hword, -⟩ := encodeIsTheWrittenFormula
  refine fun v => ⟨hword v ▸ decode_encode rfl, fun s hb hs => ?_,
    fun s hb hs => exec_of_failed hb (needsSession_eq_session.mpr hs)⟩
  refine ⟨_, exec_of_accepted hb (needsSession_eq_none.mpr hs), ?_⟩
  simp only [runWhole_sendbyte, hb]
  rfl

/-- Settles O16: the two flags of the state that SENDBYTE leaves, for either sample. -/
theorem acknowledgeSampleDecides : Obligations.AcknowledgeSampleDecides := by
  intro v s hb hs
  obtain ⟨-, hcompletes, -⟩ := sendbyteCompletes v
  obtain ⟨t, hexec, ht⟩ := hcompletes s hb hs
  have hack : t.ack = !nextSample s := congrArg State.ack ht
  have herr : t.err = (s.err || nextSample s) := congrArg State.err ht
  refine ⟨t, hexec, fun ha => ?_, fun ha => ?_⟩
  · simp [hack, herr, ha]
  · simp [hack, herr, ha]

/-! ### The bits of SENDBYTE on the bus -/

/-- Data bits one after the other (R121). -/
def bitsTrace (bits : List Bool) : List Event := bits.flatMap bitTrace

/-- The acknowledge slot with its sample (R122). -/
def ackTrace (a : Bool) : List Event :=
  [.float .data, .wait 1, .float .clk, .wait 1, .sample .data a, .wait 1, .driveLow .clk, .wait 1]

/-- The bits of a byte, bit 7 first. -/
def msbFirst (v : Byte) : List Bool := bitsDown.map v.getLsbD

/-- The eight data bits, then the acknowledge slot (R120). -/
theorem sendbyteTrace_eq (v : Byte) (a : Bool) : sendbyteTrace v a = bitsTrace (msbFirst v) ++ ackTrace a := by
  simp [sendbyteTrace, bitsTrace, msbFirst, bitsDown, ackTrace]

theorem bitsTrace_cons (b : Bool) (bits : List Bool) : bitsTrace (b :: bits) = bitTrace b ++ bitsTrace bits := rfl

theorem bitTrace_length (b : Bool) : (bitTrace b).length = 6 := by
  cases b <;> rfl

theorem bitsTrace_length (bits : List Bool) : (bitsTrace bits).length = 6 * bits.length := by
  induction bits with
  | nil => rfl
  | cons b bits ih =>
    rw [bitsTrace_cons, List.length_append, bitTrace_length, ih, List.length_cons]
    omega

/-- Six events a bit: what stands before bit `k` is the trace of the bits before it. -/
theorem bitsTrace_take (k : Nat) (bits : List Bool) : (bitsTrace bits).take (6 * k) = bitsTrace (bits.take k) := by
  induction k generalizing bits with
  | zero => rfl
  | succ k ih =>
    cases bits with
    | nil => exact List.take_nil
    | cons b bits =>
      have hsix : 6 * (k + 1) = (bitTrace b).length + 6 * k := by
        rw [bitTrace_length]
        omega
      rw [List.take_succ_cons, bitsTrace_cons, bitsTrace_cons, hsix, List.take_length_add_append, ih]

/-- What stands before bit `k` of a byte being sent. -/
theorem sendbyteTrace_take (v : Byte) (a : Bool) {k : Nat} (hk : k ≤ 8) :
    (sendbyteTrace v a).take (6 * k) = bitsTrace ((msbFirst v).take k) := by
  have hlen : (bitsTrace (msbFirst v)).length = 48 := bitsTrace_length (msbFirst v)
  rw [sendbyteTrace_eq, List.take_append_of_le_length (by omega), bitsTrace_take]

/-- Each bit leaves CLK driven low. -/
theorem bits_clk (bits : List Bool) : driveAt .clk .drivenLow (bitsTrace bits) = .drivenLow := by
  induction bits with
  | nil => rfl
  | cons b bits ih => rw [bitsTrace_cons, driveAt_append, bit_clk, ih]

theorem pulsedDrives_append (d : Drive) (a b : List Event) :
    pulsedDrives d (a ++ b) = pulsedDrives d a ++ pulsedDrives (driveAt .data d a) b := by
  induction a generalizing d with
  | nil => rfl
  | cons e es ih =>
    rcases e with (_ | _) | (_ | _) | k | ⟨l, x⟩
    · exact congrArg (List.cons d) (ih d)
    · exact ih .floating
    · exact ih d
    · exact ih .drivenLow
    · exact ih d
    · exact ih d

/-- A bit is seen once, as the drive that stands for it. -/
theorem bit_pulsedDrives (b : Bool) (d : Drive) : pulsedDrives d (bitTrace b) = [driveOfBit b] := by
  cases b <;> rfl

theorem bits_pulsedDrives (bits : List Bool) (d : Drive) : pulsedDrives d (bitsTrace bits) = bits.map driveOfBit := by
  induction bits generalizing d with
  | nil => rfl
  | cons b bits ih =>
    rw [bitsTrace_cons, pulsedDrives_append, bit_pulsedDrives, ih, List.map_cons, List.singleton_append]

/-- A peer sees the eight bits, then the floated line of the acknowledge slot. -/
theorem sendbyte_pulsedDrives (v : Byte) (a : Bool) (d : Drive) :
    pulsedDrives d (sendbyteTrace v a) = (msbFirst v).map driveOfBit ++ [.floating] := by
  rw [sendbyteTrace_eq, pulsedDrives_append, bits_pulsedDrives]
  rfl

/-- Settles O17: what SENDBYTE's trace shows a peer, its first 48 events, and CLK before each bit. -/
theorem sendbyteShowsItsBitsMsbFirst : Obligations.SendbyteShowsItsBitsMsbFirst := by
  intro v s hb hs
  have hexec := exec_of_accepted (i := .sendbyte v) hb (needsSession_eq_none.mpr hs)
  refine ⟨_, sendbyteTrace v (nextSample s), hexec, exec_trace hexec, ?_, ?_, fun hinv k hk => ?_⟩
  · exact sendbyte_pulsedDrives v (nextSample s) s.lineData
  · exact sendbyteTrace_take v (nextSample s) (Nat.le_refl 8)
  · rw [sendbyteTrace_take v (nextSample s) (Nat.le_of_lt hk), hinv.clk_low hb hs, bits_clk]

/-! ### READWORD -/

/-- Settles O18: READWORD's state in closed form, and its precondition. -/
theorem readwordCompletes : Obligations.ReadwordCompletes := by
  refine ⟨decode_encode (i := .readword) rfl, fun s hb hs hd => ?_,
    fun s hb hs => exec_of_failed hb (readwordRefusal_of_no_session hs),
    fun s hb hs hd => exec_of_failed hb (readwordRefusal_of_data_low hs hd)⟩
  refine ⟨_, exec_of_accepted hb (readwordRefusal_eq_none.mpr ⟨hs, hd⟩), ?_⟩
  simp only [runWhole_readword, hb]
  rfl

/-- The weighted sum of bits is at most the sum of the weights. -/
theorem weightedBits_le (n : Nat) (bit : Nat → Bool) (weight : Nat → Nat) :
    ((List.range n).map fun k => (bit k).toNat * weight k).sum ≤ ((List.range n).map weight).sum :=
  List.sum_le_sum fun k _ => mul_le_of_le_one_left (Nat.zero_le _) (Bool.toNat_le (bit k))

/-- The word of R132 fits a `u16`. -/
theorem wordValue_lt (bits : List Bool) : wordValue bits < 2 ^ 16 := by
  have hlow := weightedBits_le 8 (fun k => bits.getD k false) fun k => 2 ^ (7 - k)
  have hhigh := weightedBits_le 8 (fun k => bits.getD (8 + k) false) fun k => 2 ^ (15 - k)
  exact Nat.lt_of_le_of_lt (Nat.add_le_add hlow hhigh) (by decide)

theorem wordOf_toNat (bits : List Bool) : (wordOf bits).toNat = wordValue bits :=
  (BitVec.toNat_ofNat ..).trans (Nat.mod_eq_of_lt (wordValue_lt bits))

/-- Settles O19: the samples of READWORD's trace are the peer's answers, and their word fits SR. -/
theorem readwordAssemblesItsSamples : Obligations.ReadwordAssemblesItsSamples := by
  intro s hb hs hd
  obtain ⟨-, hcompletes, -⟩ := readwordCompletes
  obtain ⟨t, hexec, ht⟩ := hcompletes s hb hs hd
  have hsr : t.sr = wordOf (answers 16 s) := by rw [ht]
  have hrxdata : t.rxdata = wordOf (answers 16 s) := by rw [ht]
  obtain ⟨-, -, hsamples⟩ := readword_counts (answers 16 s) (answers_length 16 s)
  refine ⟨t, readwordTrace (answers 16 s), hexec, exec_trace hexec, ?_⟩
  rw [hsamples, hsr, hrxdata]
  exact ⟨answers_length 16 s, rfl, wordOf_toNat (answers 16 s)⟩

/-! ### The drives at the samples -/

/-- The acknowledge of the low byte, driven by the block, and the release of DATA (R134, R135). -/
def ackOutTrace : List Event := [.driveLow .data, .wait 1] ++ pulseTrace ++ [.float .data, .wait 1]

/-- The not-acknowledge of the high byte (R136). -/
def nackOutTrace : List Event := [.float .data, .wait 1] ++ pulseTrace

theorem readwordTrace_eq (bits : List Bool) :
    readwordTrace bits
      = byteReadTrace (bits.take 8) ++ ackOutTrace ++ byteReadTrace (bits.drop 8) ++ nackOutTrace := by
  simp [readwordTrace, ackOutTrace, nackOutTrace]

/-- The acknowledge takes no sample and leaves CLK driven low and DATA released. -/
theorem ackOut_drives (d : Drive) :
    sampleDrives .drivenLow d ackOutTrace = [] ∧ driveAt .clk .drivenLow ackOutTrace = .drivenLow
      ∧ driveAt .data d ackOutTrace = .floating := ⟨rfl, rfl, rfl⟩

/-- READWORD, begun with CLK driven low and DATA floating, takes its sixteen samples so (R133). -/
theorem readword_sampleDrives {bits : List Bool} (h : bits.length = 16) :
    sampleDrives .drivenLow .floating (readwordTrace bits) = List.replicate 16 (.drivenLow, .floating) := by
  obtain ⟨hnone, hclk, hdata⟩ := ackOut_drives .floating
  have hlow : (bits.take 8).length = 8 := by simp [h]
  have hhigh : (bits.drop 8).length = 8 := by simp [h]
  simp only [readwordTrace_eq, sampleDrives_append, driveAt_append, (byteRead_lines _ .floating).1,
    (byteRead_lines _ _).2, hnone, hclk, hdata, byteRead_sampleDrives, hlow, hhigh]
  rfl

/-- An attempt takes three acknowledge samples, then the sixteen of the word (42_register_access.md R151). -/
theorem attempt_sampleDrives (wa rp ra : Byte) (s : State) (c d : Drive) :
    sampleDrives c d (attemptTrace wa rp ra (attemptAnswers s))
      = List.replicate 3 (.floating, .floating) ++ List.replicate 16 (.drivenLow, .floating) := by
  have hbits : (attemptAnswers s).bits.length = 16 := answers_length 16 (afterSamples 3 s)
  have hstart : ∀ c d, sampleDrives c d startTrace = [] := fun _ _ => rfl
  have hrstart : ∀ c d, sampleDrives c d rstartTrace = [] := fun _ _ => rfl
  have hstop : ∀ c d, sampleDrives c d stopTrace = [] := fun _ _ => rfl
  simp only [attemptTrace, sampleDrives_append, driveAt_append, hstart, hrstart, hstop, sendbyte_sampleDrives,
    (sendbyte_lines _ _ _ .floating).1, (sendbyte_lines _ _ .floating _).2, readword_sampleDrives hbits]
  rfl

/-- One attempt's samples, or two's (42_register_access.md R157). -/
theorem readreg_sampleDrives (vc : BitVec 4) (wa rp ra : Byte) (s : State) (c d : Drive) :
    sampleDrives c d (readregTrace vc wa rp ra s)
      = (List.replicate (if oneAttempt vc s then 1 else 2)
          (List.replicate 3 (.floating, .floating) ++ List.replicate 16 (.drivenLow, .floating))).flatten := by
  unfold readregTrace
  split
  · rw [attempt_sampleDrives]
    rfl
  · rw [sampleDrives_append, attempt_sampleDrives, attempt_sampleDrives]
    rfl

/-- Settles O23: READWORD's drives rest on CLK driven low in a session and its own precondition, the others' on their
traces alone. -/
theorem samplesTakenWithDataFloating : Obligations.SamplesTakenWithDataFloating := by
  refine fun s hinv => ⟨fun v t h => ?_, fun t h => ?_, fun vc wa rp ra t h => ?_⟩
  · exact ⟨_, exec_trace h, sendbyte_sampleDrives v (nextSample s) s.lineClk s.lineData⟩
  · obtain ⟨hb, hr, -⟩ := exec_next.mp h
    obtain ⟨hs, hd⟩ := readwordRefusal_eq_none.mp hr
    refine ⟨_, exec_trace h, ?_⟩
    rw [hinv.clk_low hb hs, hd]
    exact readword_sampleDrives (answers_length 16 s)
  · exact ⟨_, exec_trace h, readreg_sampleDrives vc wa rp ra s s.lineClk s.lineData⟩

end Sys2Proof.Machine

/-! PROOFS. The statements of 42_register_access.md: READREG as a whole (R150, R153, R155 to R157), a peer that never
answers (R157, 95_test_vectors.md E3) and the validity classes (R160 to R168). -/

namespace Sys2Proof.Machine

/-! ### READREG -/

/-- Settles O20: READREG's word, its state in closed form, and its precondition. -/
theorem readregCompletes : Obligations.ReadregCompletes := by
  obtain ⟨-, -, -, -, -, hword, -, -⟩ := encodeIsTheWrittenFormula
  intro vc wa rp ra hvc
  have hw : vcLegal vc = true := decide_eq_true hvc
  have hpre : ∀ s, refusalOf (.readreg vc wa rp ra) s = needsNoSession s := fun _ => refusalOf_legalReadreg wa rp ra hw
  refine ⟨hword vc wa rp ra ▸ decode_encode hw, fun s hb hs => ?_,
    fun s hb hs => exec_of_failed hb ((hpre s).trans (needsNoSession_eq_session.mpr hs))⟩
  refine ⟨_, exec_of_accepted hb ((hpre s).trans (needsNoSession_eq_none.mpr hs)), ?_⟩
  simp only [runWhole_readreg, hb]
  rfl

/-! ### Validity classes -/

/-- A VC field of 0 to 6 is that of a class (30_encoding.md R74). -/
theorem exists_vcOfClass {vc : BitVec 4} (hvc : vc.toNat ≤ 6) : ∃ c, vc = vcOfClass c := by
  have hvalue : vc = BitVec.ofNat 4 vc.toNat := by simp
  generalize vc.toNat = n at hvc hvalue
  interval_cases n
  exacts [⟨.status, hvalue⟩, ⟨.soc, hvalue⟩, ⟨.voltage, hvalue⟩, ⟨.current, hvalue⟩, ⟨.temp, hvalue⟩, ⟨.tte, hvalue⟩,
    ⟨.ttf, hvalue⟩]

/-- The VC field of a class selects its check (R160). -/
theorem valid_vcOfClass (b : Config.Bounds) (c : VClass) (v : HalfWord) :
    valid b (vcOfClass c) v = validIn b c v := by
  cases c <;> rfl

/-- Settles O27, class by class. -/
theorem sentinelInvalidInEveryClass : Obligations.SentinelInvalidInEveryClass := by
  intro vc hvc
  obtain ⟨c, rfl⟩ := exists_vcOfClass hvc
  rw [valid_vcOfClass]
  cases c <;> decide

/-- CURRENT's signed check as ranges of the unsigned word (R164). -/
theorem current_ranges (v : HalfWord) :
    (v.toInt < 3000 ∧ v.toInt ≠ -1) ↔ v.toNat ≤ 0x0BB7 ∨ (0x8000 ≤ v.toNat ∧ v.toNat ≤ 0xFFFE) := by
  have hlt := v.isLt
  rw [BitVec.toInt_eq_toNat_cond]
  split <;> omega

section
variable (b : Config.Bounds) (v : HalfWord)

theorem valid_status : valid b 0#4 v = true ↔ v ≠ 0xFFFF#16 := bne_iff_ne

theorem valid_soc : valid b 1#4 v = true ↔ v.toNat < 150 := decide_eq_true_iff

theorem valid_voltage : valid b 2#4 v = true ↔ b.voltLo < v.toNat ∧ v.toNat < b.voltHi := by
  change validIn b .voltage v = true ↔ _
  simp [validIn]

theorem valid_current : valid b 3#4 v = true ↔ v.toInt < 3000 ∧ v.toInt ≠ -1 := by
  change validIn b .current v = true ↔ _
  simp [validIn]

theorem valid_temp : valid b 4#4 v = true ↔ v.toNat < b.tempMin := decide_eq_true_iff

theorem valid_tte : valid b 5#4 v = true ↔ v.toNat ≤ 1000 := decide_eq_true_iff

theorem valid_ttf : valid b 6#4 v = true ↔ 1 ≤ v.toNat ∧ v.toNat ≤ 1000 := by
  change validIn b .ttf v = true ↔ _
  simp [validIn]

end

/-- Settles O26: one lemma a class, CURRENT's ranges, and the default bounds put in. -/
theorem validityOfEachClass : Obligations.ValidityOfEachClass :=
  ⟨fun b v => ⟨valid_status b v, valid_soc b v, valid_voltage b v, (valid_current b v).trans (current_ranges v),
      valid_current b v, valid_temp b v, valid_tte b v, valid_ttf b v⟩,
    fun v => ⟨(valid_voltage _ v).trans (and_congr_right' Nat.lt_succ_iff), valid_temp _ v⟩⟩

/-! ### A peer that never answers -/

/-- An attempt takes nineteen samples: the three acknowledges, then the word's (R151). -/
theorem answers_of_attempt (s : State) :
    answers 19 s = [(attemptAnswers s).ackWrite, (attemptAnswers s).ackPointer, (attemptAnswers s).ackRead]
      ++ (attemptAnswers s).bits := by
  rw [answers_add 3 16, answers_add 2 1, answers_add 1 1]
  rfl

/-- What an attempt makes of a line nobody pulls low: no acknowledge, and every bit of the word 1 (R152). -/
theorem attemptAnswers_of_silence {s : State} (h : answers 19 s = List.replicate 19 true) :
    (attemptAnswers s).ackRead = true ∧ (attemptAnswers s).failed = true ∧ (attemptAnswers s).value = 0xFFFF#16 := by
  rw [answers_of_attempt, show List.replicate 19 true = [true, true, true] ++ List.replicate 16 true from rfl] at h
  obtain ⟨hacks, hbits⟩ := List.append_inj h rfl
  obtain ⟨hwrite, -, hread⟩ : (attemptAnswers s).ackWrite = true ∧ (attemptAnswers s).ackPointer = true
    ∧ (attemptAnswers s).ackRead = true := by simpa using hacks
  refine ⟨hread, by simp [AttemptAnswers.failed, hwrite], ?_⟩
  rw [AttemptAnswers.value, hbits]
  decide

/-- A silent peer is silent for both attempts. -/
theorem silence_of_each_attempt {s : State} (h : answers 38 s = List.replicate 38 true) :
    answers 19 s = List.replicate 19 true ∧ answers 19 (afterSamples 19 s) = List.replicate 19 true := by
  rw [answers_add 19 19, show List.replicate 38 true = List.replicate 19 true ++ List.replicate 19 true from rfl] at h
  exact List.append_inj h (by simp)

/-- A failed first attempt is followed by the second (R153). -/
theorem oneAttempt_of_failed (vc : BitVec 4) {s : State} (h : (attemptAnswers s).failed = true) :
    oneAttempt vc s = false := by
  simp [oneAttempt, h]

/-- Settles O21: both attempts fail with the word 0xFFFF, so there are two, and from floating lines each makes its three
conditions. -/
theorem silentPeerGetsTwoTransactions : Obligations.SilentPeerGetsTwoTransactions := by
  intro vc wa rp ra s hvc hinv hb hs hsilent
  obtain ⟨hfirst, hsecond⟩ := silence_of_each_attempt hsilent
  obtain ⟨-, hfailed₁, -⟩ := attemptAnswers_of_silence hfirst
  obtain ⟨hread₂, hfailed₂, hvalue₂⟩ := attemptAnswers_of_silence hsecond
  have htwo : oneAttempt vc s = false := oneAttempt_of_failed vc hfailed₁
  have hreturned : returnedAnswers vc s = attemptAnswers (afterSamples 19 s) := by simp [returnedAnswers, htwo]
  obtain ⟨-, hcompletes, -⟩ := readregCompletes vc wa rp ra hvc
  obtain ⟨t, hexec, ht⟩ := hcompletes s hb hs
  obtain ⟨hclk, hdata⟩ := hinv.lines_float hb hs
  rw [hreturned, hread₂, hfailed₂, hvalue₂, htwo] at ht
  have hvalid : t.valid = valid s.bounds vc 0xFFFF#16 := congrArg State.valid ht
  refine ⟨t, readregTrace vc wa rp ra s, hexec, exec_trace hexec, ?_, congrArg State.rxdata ht,
    congrArg State.failed ht, congrArg State.attempts ht, congrArg State.err ht, congrArg State.ack ht, hvalid,
    fun hdefault => ?_⟩
  · rw [hclk, hdata, readreg_conditions, htwo]
    rfl
  · rw [hvalid, hdefault]
    exact sentinelInvalidInEveryClass vc hvc

end Sys2Proof.Machine

/-! PROOFS. The statements of 60_exceptions.md: the order of the refusals (R185), what a refusal leaves as it was (R183),
that the machine never stops (R180, R187) and that an idle block holds still (R195). -/

namespace Sys2Proof.Machine

/-! ### The order of the refusals -/

/-- READWORD's precondition asks for the session first (41_byte_transfer.md R139, R185). -/
theorem readwordRefusal_eq (s : State) :
    readwordRefusal s
      = if s.sess then (if s.lineData = .drivenLow then some .lineState else none) else some .session := by
  cases hs : s.sess with
  | false => exact readwordRefusal_of_no_session hs
  | true => simp [readwordRefusal, needsSession_eq_none.mpr hs]

/-- READREG's precondition asks for the class first (42_register_access.md R159, R185). -/
theorem readregRefusal_eq (vc : BitVec 4) (s : State) :
    readregRefusal vc s
      = if 6 < vc.toNat then some .reservedVClass else if s.sess then some .session else none := by
  by_cases hvc : 6 < vc.toNat
  · simp [readregRefusal, vcLegal, hvc]
  · simp [readregRefusal, vcLegal, hvc, Nat.le_of_not_lt hvc, needsNoSession]

/-- What a command answers where `o` is the first reason to refuse it, if there is one. -/
def AnswersFor (i : Instr) (s : State) (o : Option RefuseReason) : Prop :=
  match o with
  | some r => exec i s = .refused (.refuse r)
  | none => ∃ t, exec i s = .next t

/-- With BUSY = 0 the precondition alone decides (20_memory.md R56). -/
theorem answersFor_precondition (i : Instr) {s : State} {o : Option RefuseReason} (hb : s.busy = false)
    (hpre : refusalOf i s = o) : AnswersFor i s o := by
  cases o with
  | none => exact ⟨_, exec_of_accepted hb hpre⟩
  | some r => exact exec_of_failed hb hpre

/-- Settles O7: BUSY comes first, then the precondition of each command as its rule orders it. -/
theorem commandRefusedForTheFirstReason : Obligations.CommandRefusedForTheFirstReason := by
  intro i s
  cases hb : s.busy with
  | true => exact exec_refused.mpr (.inl ⟨hb, rfl⟩)
  | false =>
    cases i with
    | readword => exact answersFor_precondition .readword hb (readwordRefusal_eq s)
    | readreg vc wa rp ra => exact answersFor_precondition (.readreg vc wa rp ra) hb (readregRefusal_eq vc s)
    | _ => exact answersFor_precondition _ hb rfl

/-! ### Who writes the refusal mark -/

@[simp] theorem finish_refusals (i : Instr) (s : State) : (finish i s).refusals = s.refusals := by
  cases i <;> rfl

@[simp] theorem checkStep_refusals (i : Instr) (s : State) : (checkStep i s).refusals = s.refusals := by
  cases i with
  | readreg vc wa rp ra =>
    simp only [checkStep, checkRetry]
    split <;> rfl
  | _ => rfl

@[simp] theorem accept_refusals (i : Instr) (s : State) : (accept i s).refusals = s.refusals := by
  rw [accept_eq]

@[simp] theorem runWhole_refusals (i : Instr) (s : State) : (runWhole i s).refusals = s.refusals := by
  cases i with
  | start => rw [runWhole_start]
  | rstart => rw [runWhole_rstart]
  | stop => rw [runWhole_stop]
  | sendbyte v => rw [runWhole_sendbyte]
  | readword => rw [runWhole_readword]
  | readreg vc wa rp ra => rw [runWhole_readreg]

theorem engineStep_refusals {s t : State} (h : engineStep s = .next t) : t.refusals = s.refusals := by
  obtain ⟨i, -, ⟨m, -, rfl⟩ | ⟨-, rfl⟩ | rfl⟩ := engineStep_cases h
  · exact (apart_microStep s m).refusals
  · exact checkStep_refusals i s
  · exact finish_refusals i s

theorem exec_refusals {i : Instr} {s t : State} (h : exec i s = .next t) : t.refusals = s.refusals := by
  obtain ⟨-, -, rfl⟩ := exec_next.mp h
  exact (runWhole_refusals i _).trans (issue_refusals s i)

/-- A step leaves the block as it was, or the refusal mark (R183). -/
theorem step_keeps_block_or_refusals {s t : State} (h : step s = .next t) :
    sameBlock s t ∨ t.refusals = s.refusals := by
  obtain ⟨rest, -, hidle | hengine | hrefused | hcmd | hread | hwrite | hreset⟩ := step_cases h
  · obtain ⟨-, -, rfl⟩ := hidle
    exact .inl rfl
  · obtain ⟨-, -, he⟩ := hengine
    exact .inr (engineStep_refusals he :)
  · obtain ⟨r, rfl⟩ := hrefused
    exact .inl rfl
  · obtain ⟨w, i, -, -, -, he⟩ := hcmd
    exact .inr (exec_refusals he :)
  · obtain ⟨off, width, -, rfl⟩ := hread
    exact .inl (hostRead_sameBlock off width { s with inputs := rest })
  · obtain ⟨off, width, w, i, -, -, -, -, rfl⟩ := hwrite
    exact .inr (accept_refusals i _)
  · obtain ⟨-, rfl⟩ := hreset
    exact .inr (applyReset_refusals _)

/-- Settles O36: a step that does not leave the mark leaves the block. -/
theorem refusedAccessesWriteNothing : Obligations.RefusedAccessesWriteNothing :=
  fun _ _ h hmarked => (step_keeps_block_or_refusals h).resolve_right hmarked

/-! ### The engine's turn and the run -/

section
variable {s : State} {rest : List Input}

/-- With nothing waiting a step is the engine's turn. -/
theorem step_of_no_input (h : s.inputs = []) : step s = engineTurn s := by
  simp only [step, h]

theorem step_of_engine (h : s.inputs = .engine :: rest) : step s = engineTurn { s with inputs := rest } := by
  simp only [step, h]

theorem step_of_reset (h : s.inputs = .reset :: rest) :
    step s = .next (State.applyReset { s with inputs := rest }) := by
  simp only [step, h]

end

/-- With BUSY = 0 the engine does nothing in its turn (R195). -/
theorem engineTurn_idle {s : State} (hb : s.busy = false) : engineTurn s = .next s := by
  simp [engineTurn, hb]

/-- The engine's turn ends the run only with BUSY = 1 and no command in CUR. -/
theorem engineTurn_answers {s : State} (h : s.busy = true → ∃ i, s.cur = some i) : ∃ t, engineTurn s = .next t := by
  cases hb : s.busy with
  | false => exact ⟨s, engineTurn_idle hb⟩
  | true =>
    obtain ⟨i, hc⟩ := h hb
    obtain ⟨t, ht⟩ := engineStep_answers hc
    exact ⟨t, by rw [engineTurn, if_pos hb, ht]⟩

/-- The host action "cmd" answers a next state, run or refused (R183). -/
theorem runCommandWord_answers (w : Word) (s : State) : ∃ t, runCommandWord w s = .next t := by
  obtain ⟨r, hr⟩ | ⟨i, t, -, -, -, ht⟩ := runCommandWord_cases w s
  · exact ⟨_, hr⟩
  · exact ⟨t, ht⟩

/-- Whatever input waits, and where none waits, a step answers a next state, if BUSY = 1 comes with a command in CUR. -/
theorem step_answers {s : State} (h : s.busy = true → ∃ i, s.cur = some i) : ∃ t, step s = .next t := by
  cases hin : s.inputs with
  | nil => exact step_of_no_input hin ▸ engineTurn_answers h
  | cons x rest =>
    cases x with
    | cmd w => exact step_of_cmd hin ▸ runCommandWord_answers w { s with inputs := rest }
    | read off width => exact ⟨_, step_of_read hin⟩
    | write off width v => exact ⟨_, step_of_write hin⟩
    | engine => exact step_of_engine hin ▸ engineTurn_answers (s := { s with inputs := rest }) h
    | reset => exact ⟨_, step_of_reset hin⟩

/-- Settles O47: the invariant has a command in CUR while BUSY = 1. -/
theorem machineNeverStops : Obligations.MachineNeverStops := by
  refine fun s hinv => step_answers fun hb => ?_
  obtain ⟨i, hc, -⟩ := hinv.running hb
  exact ⟨i, hc⟩

/-- Settles O40: with nothing waiting the engine has its turn, and does nothing in it. -/
theorem idleBlockHoldsStill : Obligations.IdleBlockHoldsStill :=
  fun _ hb hin => (step_of_no_input hin).trans (engineTurn_idle hb)

end Sys2Proof.Machine

/-! PROOFS. The statements of 70_reset_and_hazards.md: what reset leaves (R200 to R202), how long the commands are
(R209), and that a command in progress ends (R209, 60_exceptions.md R193). -/

namespace Sys2Proof.Machine

/-! ### Reset -/

/-- Power-on is the reset input taken from the reset state. -/
theorem applyReset_reset : State.reset.applyReset = State.reset := rfl

/-- Settles O45: the reset input gives the invariant, and power-on is a case of it. -/
theorem invariantHoldsAtReset : Obligations.InvariantHoldsAtReset :=
  applyReset_inv State.reset

theorem statusWord_reset : statusWord State.reset = 0x00000000#32 := by decide

theorem rxdataWord_reset : rxdataWord State.reset = 0x0000FFFF#32 := by decide

/-- Settles O43: power-on and the reset input leave an `applyReset`, whose fields are those of the table. -/
theorem resetGivesEveryValue : Obligations.ResetGivesEveryValue := by
  refine ⟨fun s ⟨rest, hin⟩ => ⟨_, step_of_reset hin, applyReset_bounds _⟩, fun t ht => ?_⟩
  obtain ⟨u, rfl⟩ : ∃ u : State, t = u.applyReset := by
    obtain rfl | ⟨s, ⟨rest, hin⟩, hstep⟩ := ht
    · exact ⟨State.reset, applyReset_reset.symm⟩
    · exact ⟨_, Host.Outcome.next.inj (hstep.symm.trans (step_of_reset hin))⟩
  exact ⟨rfl, rfl, rfl, rfl, rfl, rfl, rfl, rfl, rfl, rfl, rfl, rfl, rfl, rfl, rfl, rfl, rfl, rfl, rfl,
    statusWord_reset, rxdataWord_reset, rfl⟩

/-- Settles O48: the step of the reset input, field by field. -/
theorem resetLeavesTheWorldOutside : Obligations.ResetLeavesTheWorldOutside :=
  fun _ _ hin => ⟨_, step_of_reset hin, rfl, rfl, rfl, rfl, rfl, rfl⟩

/-- With BUSY = 0 a command runs exactly where its precondition holds (20_memory.md R56). -/
theorem exec_answers_iff {i : Instr} {s : State} (hb : s.busy = false) :
    (∃ t, exec i s = .next t) ↔ refusalOf i s = none := by
  refine ⟨fun ⟨t, h⟩ => ?_, fun hr => ⟨_, exec_of_accepted hb hr⟩⟩
  obtain ⟨-, hr, -⟩ := exec_next.mp h
  exact hr

/-- Settles O44: an idle block holds still, and reset has no session open. -/
theorem firstCommandAfterReset : Obligations.FirstCommandAfterReset := by
  refine ⟨idleBlockHoldsStill State.reset rfl rfl, fun i hw => (exec_answers_iff rfl).trans ?_⟩
  cases i with
  | start => exact iff_of_true rfl (.inl rfl)
  | readreg vc wa rp ra => exact iff_of_true (readregRefusal_eq_none.mpr ⟨hw, rfl⟩) (.inr rfl)
  | _ => exact iff_of_false nofun (by simp [Instr.opcode])

/-! ### Durations and counts -/

/-- A row of the table of R209: the quanta, micro-operations and samples of a trace. -/
def Counts (es : List Event) (quanta micros samples : Nat) : Prop :=
  quantaOf es = quanta ∧ es.length = micros ∧ (samplesOf es).length = samples

theorem Counts.append {a b : List Event} {q m k q' m' k' : Nat} (h : Counts a q m k) (h' : Counts b q' m' k') :
    Counts (a ++ b) (q + q') (m + m') (k + k') := by
  obtain ⟨rfl, rfl, rfl⟩ := h
  obtain ⟨rfl, rfl, rfl⟩ := h'
  exact ⟨quantaOf_append a b, List.length_append, by rw [samplesOf_append, List.length_append]⟩

theorem counts_startTrace : Counts startTrace (Config.pQuiet + 2) 5 0 := ⟨rfl, rfl, rfl⟩

theorem counts_rstartTrace : Counts rstartTrace 4 8 0 := ⟨rfl, rfl, rfl⟩

theorem counts_stopTrace : Counts stopTrace 3 6 0 := ⟨rfl, rfl, rfl⟩

theorem counts_sendbyteTrace (v : Byte) (a : Bool) : Counts (sendbyteTrace v a) 36 56 1 := by
  obtain ⟨hquanta, hlength, hsamples⟩ := sendbyte_counts v a
  exact ⟨hquanta, hlength, congrArg List.length hsamples⟩

theorem counts_readwordTrace {bits : List Bool} (h : bits.length = 16) : Counts (readwordTrace bits) 57 94 16 := by
  obtain ⟨hquanta, hlength, hsamples⟩ := readword_counts bits h
  exact ⟨hquanta, hlength, (congrArg List.length hsamples).trans h⟩

/-- An attempt is the sum of the seven commands it is made of (42_register_access.md R151). -/
theorem counts_attemptTrace (wa rp ra : Byte) (s : State) :
    Counts (attemptTrace wa rp ra (attemptAnswers s)) (Config.pQuiet + 174) 281 19 :=
  counts_startTrace.append (counts_sendbyteTrace ..) |>.append (counts_sendbyteTrace ..)
    |>.append counts_rstartTrace |>.append (counts_sendbyteTrace ..)
    |>.append (counts_readwordTrace (answers_length 16 (afterSamples 3 s))) |>.append counts_stopTrace

/-- A READREG is one attempt or two (42_register_access.md R157). -/
theorem counts_readregTrace (vc : BitVec 4) (wa rp ra : Byte) (s : State) :
    if oneAttempt vc s then Counts (readregTrace vc wa rp ra s) (Config.pQuiet + 174) 281 19
    else Counts (readregTrace vc wa rp ra s) (2 * (Config.pQuiet + 174)) 562 38 := by
  have hfirst := counts_attemptTrace wa rp ra s
  have hsecond := counts_attemptTrace wa rp ra (afterSamples 19 s)
  unfold readregTrace
  split
  · exact hfirst
  · rw [Nat.two_mul]
    exact hfirst.append hsecond

/-- Settles O25: the events a command leaves are its trace, and each trace has its row. -/
theorem durationsAndCountsOfTheCommands : Obligations.DurationsAndCountsOfTheCommands := by
  intro i s t h
  refine ⟨commandTrace i s, exec_trace h, ?_⟩
  cases i with
  | start => exact counts_startTrace
  | rstart => exact counts_rstartTrace
  | stop => exact counts_stopTrace
  | sendbyte v => exact counts_sendbyteTrace v (nextSample s)
  | readword => exact counts_readwordTrace (answers_length 16 s)
  | readreg vc wa rp ra => exact counts_readregTrace vc wa rp ra s

/-! ### A command in progress ends -/

/-- The steps without a micro-operation still to come: the completion, and CHECK before it while a first attempt has not
passed it (log 2). -/
def controlSteps : Phase → Nat
  | .idle => 1
  | .run1 => 2
  | .check => 2
  | .run2 => 1
  | .done => 1

/-- The most micro-operations still to come: no program is longer than READREG's two attempts, which `upc` counts
through (log 14). -/
def microsLeft (s : State) : Nat := 562 - s.upc

/-- The most steps the command in progress has yet to take. -/
def stepsLeft (s : State) : Nat := microsLeft s + controlSteps s.phase

/-- From `s` to `t` fewer steps are left, and an event was left for each micro-operation run. -/
structure Progress (s t : State) : Prop where
  fewer_steps : stepsLeft t < stepsLeft s
  event_each : t.trace.length + microsLeft t = s.trace.length + microsLeft s

theorem controlSteps_pos (p : Phase) : 1 ≤ controlSteps p := by
  cases p <;> decide

theorem controlSteps_le_two (p : Phase) : controlSteps p ≤ 2 := by
  cases p <;> decide

theorem program_length_le (i : Instr) : (program i).length ≤ 562 := by
  rw [program_length]
  cases i <;> simp

section
variable {i : Instr} {s : State} {m : MicroStep}

theorem RunsNext.upc_lt (h : RunsNext i s m) : s.upc < 562 := by
  obtain ⟨hlt, -⟩ := List.getElem?_eq_some_iff.mp h.listed
  exact Nat.lt_of_lt_of_le hlt (program_length_le i)

/-- A micro-operation brings no CHECK back: a READREG in its second attempt is past the place of CHECK. -/
theorem RunsNext.controlSteps_le (h : RunsNext i s m) (hp : placed i s) :
    controlSteps (microStep s m).phase ≤ controlSteps s.phase := by
  have hafter := h.after.1
  have hupc := microStep_upc s m
  rcases readreg_or_single i with ⟨vc, wa, rp, ra, rfl⟩ | hop
  · obtain ⟨hs, -⟩ | ⟨hs, -⟩ | ⟨hs, hlo, -⟩ | hs := hp
    · exact hs ▸ controlSteps_le_two _
    · exact hs ▸ controlSteps_le_two _
    · obtain ⟨-, hlt, -⟩ | ⟨-, heq, -⟩ | ⟨ht, -⟩ | ht := hafter
      · omega
      · omega
      · rw [hs, ht]
      · rw [hs, ht]
        decide
    · rcases h.running with hr | hr | hr <;> exact absurd (hs.symm.trans hr) (by decide)
  · rw [((placed_single hop _).mp hafter).1, ((placed_single hop s).mp hp).1]

/-- A micro-operation: one more event, one micro-operation less to come. -/
theorem RunsNext.progress (h : RunsNext i s m) (hp : placed i s) : Progress s (microStep s m) := by
  have hlt := h.upc_lt
  have hcontrol := h.controlSteps_le hp
  obtain ⟨e, htrace, -, -, hupc⟩ := microStep_event s m
  constructor
  · simp only [stepsLeft, microsLeft, hupc]
    omega
  · simp only [microsLeft, htrace, hupc, List.length_append, List.length_singleton]
    omega

/-- CHECK: one step less to come, whichever way it decides (42_register_access.md R158). -/
theorem checkRetry_progress (vc : BitVec 4) (hp : s.phase = .check) : Progress s (checkRetry vc s) := by
  have hcheck : stepsLeft s = microsLeft s + 2 := by rw [stepsLeft, hp, controlSteps]
  unfold checkRetry
  split <;> exact ⟨hcheck ▸ Nat.lt_succ_self _, rfl⟩

end

/-- A step of the engine completes the command, or leaves it in progress with less to come. -/
theorem step_completes_or_progresses {s : State} (hinv : Inv s) (hb : s.busy = true) (hin : s.inputs = []) :
    ∃ t, step s = .next t
      ∧ ((t.busy = false ∧ t.trace = s.trace)
        ∨ (Inv t ∧ t.busy = true ∧ t.inputs = [] ∧ Progress s t)) := by
  obtain ⟨i, hc, -, hp, -⟩ := hinv.running hb
  have halone : EngineAlone i s := ⟨hin, hb, hc⟩
  rw [step_engine hin hb]
  rcases placed_cases hp with ⟨m, hm⟩ | ⟨hph, -, vc, wa, rp, ra, rfl⟩ | hend
  · have hstep := engineStep_of_runsNext hc hm
    have hnext := halone.of_apart (apart_microStep s m)
    exact ⟨_, hstep, .inr ⟨engineStep_inv hinv hb hstep, hnext.busy, hnext.inputs, hm.progress hp⟩⟩
  · have hstep := engineStep_of_check hc hph
    have hnext := halone.of_checkStep
    exact ⟨_, hstep, .inr ⟨engineStep_inv hinv hb hstep, hnext.busy, hnext.inputs, checkRetry_progress vc hph⟩⟩
  · obtain ⟨-, hbusy, htrace, -⟩ := finish_facts i s
    exact ⟨_, engineStep_of_atEnd hc hend, .inl ⟨hbusy, htrace⟩⟩

/-- The command in progress ends within the steps and the micro-operations it has left. -/
theorem ends_within_stepsLeft (n : Nat) {s : State} (hinv : Inv s) (hb : s.busy = true) (hin : s.inputs = [])
    (hn : stepsLeft s ≤ n) :
    ∃ k t, k ≤ n ∧ stepsTo k s t ∧ t.busy = false ∧ t.trace.length ≤ s.trace.length + microsLeft s := by
  induction n generalizing s with
  | zero =>
    have hpos := controlSteps_pos s.phase
    unfold stepsLeft at hn
    omega
  | succ n ih =>
    obtain ⟨t, hstep, ⟨htb, htrace⟩ | ⟨htinv, htb, htin, hprogress⟩⟩ :=
      step_completes_or_progresses hinv hb hin
    · exact ⟨1, t, Nat.le_add_left 1 n, stepsTo_one hstep, htb, htrace ▸ Nat.le_add_right _ _⟩
    · obtain ⟨hless, hevents⟩ := hprogress
      obtain ⟨k, u, hk, hrun, hub, hlen⟩ := ih htinv htb htin (by omega)
      exact ⟨1 + k, u, by omega, stepsTo_add (stepsTo_one hstep) hrun, hub, hevents ▸ hlen⟩

/-- Settles O42: from any place in any program at most 562 micro-operations, CHECK and the completion are left. -/
theorem everyCommandEnds : Obligations.EveryCommandEnds := by
  intro s hinv hb hin
  have hmicros : microsLeft s ≤ 562 := Nat.sub_le 562 s.upc
  have hsteps : stepsLeft s ≤ 564 := Nat.add_le_add hmicros (controlSteps_le_two s.phase)
  obtain ⟨n, t, hn, hrun, htb, htrace⟩ := ends_within_stepsLeft 564 hinv hb hin hsteps
  exact ⟨n, t, hn, hrun, htb, htrace.trans (Nat.add_le_add_left hmicros _)⟩

end Sys2Proof.Machine
